-- ==== Sys2Proof/Word.lean ====
section
/-! DEFINITION. The word types. Every command word, operand and response is a whole 32-bit word (R35, R52, R53). -/

namespace Sys2Proof

/-- A command, operand or response word: ADDR_WIDTH = 32 bits (R12, R47, R52). -/
abbrev Word := BitVec 32

/-- A statistics counter: STAT_WIDTH = 32 bits (R11, R27). -/
abbrev Stat := BitVec 32

/-- The target field of a slot, target bits [31:2]: TARGET_FIELD_BITS = 30 bits (R12, R21). -/
abbrev Target := BitVec 30

end Sys2Proof
end

