-- ==== Sys2Proof/Syntax.lean ====
section
/-! DEFINITION. The four commands (R4, R54) and the value sets of their operands (R10, R19, R24). -/

namespace Sys2Proof

/-- The four states of an FSM counter, in the order of R24. Also the values of `initialFsmState` (R19). -/
inductive FsmState where
  | snt
  | wnt
  | wt
  | st
deriving DecidableEq, Repr

/-- A history or table scope (R19): the source's Global and Local. -/
inductive Scope where
  | global
  /-- The source's Local: one register or table per slot. -/
  | perSlot
deriving DecidableEq, Repr

/-- The sharing mode (R10, R19): None, LSB-share and Mid-share. -/
inductive SharingMode where
  | noShare
  | lsbShare
  | midShare
deriving DecidableEq, Repr

/-- What INIT's two-bit SM field can say (R48): a mode, or code 3, which is reserved (R19, R55; log 11). -/
inductive SharingField where
  | mode (m : SharingMode)
  | reserved
deriving DecidableEq, Repr

/-- One constructor per row of the opcode table, with the decoded operands of R52. -/
inductive Instr where
  /-- INIT (R48, R58): capacity, history width, tag width, initial counter state, history scope, table scope, sharing. -/
  | init (cap hw tw : Word) (ifs : FsmState) (hs ts : Scope) (sm : SharingField)
  /-- PREDICT (R49, R72). -/
  | predict (pc : Word)
  /-- UPDATE (R50, R74): `pc, actualTarget, actuallyTaken, predictedTarget`. -/
  | update (pc atgt : Word) (taken : Bool) (ptgt : Word)
  /-- GETSTATS (R51, R82). -/
  | getstats
deriving DecidableEq, Repr

end Sys2Proof
end

