-- ==== Sys2Proof/WellFormed.lean ====
section
/-! DEFINITION. Which commands the encoding admits. The one ill-formed term is an INIT whose sharing field is the
reserved code (R19, R55). Alignment and `cap = 0` are refused by value in the machine (R89, R90), not here. -/

namespace Sys2Proof

/-- The SM field of an INIT is not the reserved code 3 (R55). -/
def SharingField.legal : SharingField → Bool
  | .mode _ => true
  | .reserved => false

/-- The command is one that a word of R48 to R51 stands for. -/
def Instr.wellFormed : Instr → Bool
  | .init _ _ _ _ _ _ sm => sm.legal
  | .predict _ => true
  | .update _ _ _ _ => true
  | .getstats => true

end Sys2Proof
end

