-- ==== Sys2Proof/Decode.lean ====
section
/-! DEFINITION. The command encoding (30_encoding.md): decoding words, then encoding commands. -/

namespace Sys2Proof

/-! ## Codes of the enumerated fields (R19, R24) -/

/-- The numeric code of a counter state (R24). -/
def FsmState.code : FsmState → BitVec 2
  | .snt => 0
  | .wnt => 1
  | .wt => 2
  | .st => 3

/-- The counter state of a two-bit code (R24): every code has one. -/
def FsmState.ofCode (c : BitVec 2) : FsmState :=
  if c = 0 then .snt else if c = 1 then .wnt else if c = 2 then .wt else .st

/-- The bit of a scope (R19): 0 = Global, 1 = Local. -/
def Scope.code : Scope → BitVec 1
  | .global => 0
  | .perSlot => 1

/-- The scope of a bit (R19). -/
def Scope.ofCode (c : BitVec 1) : Scope :=
  if c = 0 then .global else .perSlot

/-- The code of a sharing field (R19): 0 = None, 1 = LSB-share, 2 = Mid-share, 3 reserved. -/
def SharingField.code : SharingField → BitVec 2
  | .mode .noShare => 0
  | .mode .lsbShare => 1
  | .mode .midShare => 2
  | .reserved => 3

/-- The sharing field of a two-bit code (R19). -/
def SharingField.ofCode (c : BitVec 2) : SharingField :=
  if c = 0 then .mode .noShare
  else if c = 1 then .mode .lsbShare
  else if c = 2 then .mode .midShare
  else .reserved

/-! ## The command word (R47 to R51, R54) -/

/-- The opcode field `OP = W0[2:0]` (R47). -/
def opField (w0 : Word) : BitVec 3 := w0.extractLsb' 0 3

/-- OP of INIT (R54). -/
abbrev opInit : BitVec 3 := 1

/-- OP of PREDICT (R54). -/
abbrev opPredict : BitVec 3 := 2

/-- OP of UPDATE (R54). -/
abbrev opUpdate : BitVec 3 := 3

/-- OP of GETSTATS (R54). -/
abbrev opGetstats : BitVec 3 := 4

/-- How many operand words follow a command word: OP alone fixes it (R47, R54). A reserved OP has none. -/
def operandCount (w0 : Word) : Nat :=
  if opField w0 = opInit then 3
  else if opField w0 = opPredict then 1
  else if opField w0 = opUpdate then 3
  else 0

/-- Why a command word is no command (R55). All three are the one refusal `ReservedEncoding` (R87). -/
inductive DecodeError where
  /-- OP is 000, 101, 110 or 111. -/
  | reservedOp
  /-- A reserved bit of W0 is set. -/
  | reservedBits
  /-- An INIT with SM = 3. -/
  | reservedSharing
deriving DecidableEq, Repr

/-- One command from its word and its operand words (R48 to R52). A command with fewer operands ignores the rest. -/
def decodeCommand (w0 w1 w2 w3 : Word) : Except DecodeError Instr :=
  if opField w0 = opInit then
    if w0.extractLsb' 9 23 ≠ 0 then .error .reservedBits
    else
      match SharingField.ofCode (w0.extractLsb' 7 2) with
      | .reserved => .error .reservedSharing
      | .mode m =>
        .ok (.init w1 w2 w3 (FsmState.ofCode (w0.extractLsb' 3 2)) (Scope.ofCode (w0.extractLsb' 5 1))
          (Scope.ofCode (w0.extractLsb' 6 1)) (.mode m))
  else if opField w0 = opPredict then
    if w0.extractLsb' 3 29 ≠ 0 then .error .reservedBits else .ok (.predict w1)
  else if opField w0 = opUpdate then
    if w0.extractLsb' 4 28 ≠ 0 then .error .reservedBits else .ok (.update w1 w2 (w0.getLsbD 3) w3)
  else if opField w0 = opGetstats then
    if w0.extractLsb' 3 29 ≠ 0 then .error .reservedBits else .ok .getstats
  else .error .reservedOp

/-- What the decoder reads at the head of a stream of words. -/
inductive Decoded where
  /-- There is no whole command yet: no word, or fewer operand words than R47 asks for (log 6). -/
  | incomplete
  /-- The command's word is reserved (R55); `rest` follows the command and its operand words (log 7). -/
  | rejected (why : DecodeError) (rest : List Word)
  /-- One command, and the words after it. -/
  | command (i : Instr) (rest : List Word)
deriving DecidableEq, Repr

/-- The first command of a stream of words (R47). -/
def decode : List Word → Decoded
  | [] => .incomplete
  | w0 :: args =>
    if args.length < operandCount w0 then .incomplete
    else
      match decodeCommand w0 (args.getD 0 0) (args.getD 1 0) (args.getD 2 0) with
      | .ok i => .command i (args.drop (operandCount w0))
      | .error why => .rejected why (args.drop (operandCount w0))

/-! ## The encoder (R48 to R51) -/

/-- The command word of INIT (R48): `[31:9] = 0`, SM, TS, HS, IFS, `OP = 001`. -/
def initWord (ifs : FsmState) (hs ts : Scope) (sm : SharingField) : Word :=
  (0 : BitVec 23) ++ sm.code ++ ts.code ++ hs.code ++ ifs.code ++ opInit

/-- The command word of PREDICT (R49). -/
def predictWord : Word := (0 : BitVec 29) ++ opPredict

/-- The command word of UPDATE (R50): `[31:4] = 0`, T, `OP = 011`. -/
def updateWord (taken : Bool) : Word := (0 : BitVec 28) ++ BitVec.ofBool taken ++ opUpdate

/-- The command word of GETSTATS (R51). -/
def getstatsWord : Word := (0 : BitVec 29) ++ opGetstats

/-- The words of a command: the command word, then its operand words (R48 to R52). -/
def encode : Instr → List Word
  | .init cap hw tw ifs hs ts sm => [initWord ifs hs ts sm, cap, hw, tw]
  | .predict pc => [predictWord, pc]
  | .update pc atgt taken ptgt => [updateWord taken, pc, atgt, ptgt]
  | .getstats => [getstatsWord]

/-! ## Words numbered as spec/opcode_table.json numbers them (log 12) -/

/-- The four words, each 32 bits and the first lowest, of the low `nbits` bits of `w`; every bit above is 0. -/
def tableWords (nbits w : Nat) : List Word :=
  [BitVec.ofNat 32 (w % 2 ^ nbits), BitVec.ofNat 32 ((w % 2 ^ nbits) >>> 32),
    BitVec.ofNat 32 ((w % 2 ^ nbits) >>> 64), BitVec.ofNat 32 ((w % 2 ^ nbits) >>> 96)]

/-- The same words, cut to the command word and the operand words its OP asks for. -/
def tableCommand (nbits w : Nat) : List Word :=
  (tableWords nbits w).take (1 + operandCount ((tableWords nbits w).headD 0))

/-- The command the decoder reads from a table row's bits. -/
def decodeTableWord (nbits w : Nat) : Option Instr :=
  match decode (tableWords nbits w) with
  | .command i _ => some i
  | .rejected _ _ => none
  | .incomplete => none

end Sys2Proof
end

