-- ==== Sys2Proof/Config.lean ====
section
/-! DEFINITION. What is fixed for one machine: the constants the source states as numbers (R12), and the instance
parameters the spec leaves OPEN (R11), which have no value here. -/

namespace Sys2Proof.Config

/-- ADDR_WIDTH (R12): the width of `Word`. -/
abbrev addrWidth : Nat := 32

/-- STAT_WIDTH (R11, decision D18): the width of `Stat`. -/
abbrev statWidth : Nat := 32

/-- ALIGN_SHIFT (R12): the low bits of a pc or target that are dropped. -/
abbrev alignShift : Nat := 2

/-- FALLTHROUGH (R12): the predicted not-taken target is `pc + 4`. -/
abbrev fallthroughBytes : Nat := 4

/-- MID_SHARE_SHIFT (R12): the Mid-share window starts at raw pc bit 16. -/
abbrev midShareShift : Nat := 16

/-- TARGET_FIELD_BITS (R12): the width of `Target`. -/
abbrev targetFieldBits : Nat := 30

/-- COUNTER_BITS (R12): the width of one FSM counter. -/
abbrev counterBits : Nat := 2

/-- VALID_BITS (R12): the width of a slot's valid bit. -/
abbrev validBits : Nat := 1

/-- MAX_BTB_CAPACITY - 1, OPEN (R11, I2): no value. DESIGN CHOICE (log 1): the parameter is written as one more than
this, since R11 gives it as an integer >= 1. -/
opaque spareBtbCapacity : Nat

/-- MAX_BTB_CAPACITY, OPEN, an integer >= 1 (R11, I2). -/
def maxBtbCapacity : Nat := spareBtbCapacity + 1

/-- MAX_HISTORY_WIDTH, OPEN, an integer >= 0 (R11, I2): no value. -/
opaque maxHistoryWidth : Nat

/-- MAX_TAG_WIDTH, OPEN, an integer >= 0 (R11, I2): no value. -/
opaque maxTagWidth : Nat

end Sys2Proof.Config
end

