-- ==== Sys2Proof/Machine/State.lean ====
section
/-! DEFINITION. The state of the block, as plain data (10_state.md), and of the caller's interface to it. -/

namespace Sys2Proof.Machine

/-! ## Storage -/

/-- A storage indexed by numbers (R33): the entries that differ from what an unlisted number reads as (log 10). -/
abbrev Cells (α : Type) := List (Nat × α)

/-- One BTB slot (R21, R23). `tag` has TW bits and `lh` has HW bits, widths fixed only by INIT (log 9). -/
structure Slot where
  /-- `V`: whether the slot tracks a branch. -/
  v : Bool
  /-- `TAG`, below `2^TW`. -/
  tag : Nat
  /-- `TGT`: bits [31:2] of the target. -/
  tgt : Target
  /-- `LH`: the slot's local history, below `2^HW`; kept at 0 under HS = Global (R23, log 10). -/
  lh : Nat
deriving DecidableEq, Repr

/-- A slot as INIT leaves it (R31). -/
def Slot.cleared : Slot := { v := false, tag := 0, tgt := 0, lh := 0 }

/-! ## The predictor -/

/-- The configuration registers (R18, R19). -/
structure Configuration where
  cap : Word
  hw : Word
  tw : Word
  ifs : FsmState
  hs : Scope
  ts : Scope
  sm : SharingMode
deriving DecidableEq, Repr

/-- Everything that holds a value while `LC = Ready` (R16, R18 to R27). -/
structure Predictor where
  cfg : Configuration
  /-- The BTB: slot `i` is `cells.read Slot.cleared i`, `i < CAP` (R21). -/
  btb : Cells Slot
  /-- The FSM storage: counter `j` is `cells.read IFS j`, `j < NFSM` (R25). -/
  fsm : Cells FsmState
  /-- `GHR`, below `2^HW` (R26). -/
  ghr : Nat
  /-- `NPRED` (R27). -/
  npred : Stat
  /-- `NMISP` (R27). -/
  nmisp : Stat
deriving DecidableEq, Repr

/-- The lifecycle register `LC` (R17). Only `Ready` has predictor state with a value (R30, R32, I13; log 4). -/
inductive Lifecycle where
  | uninit
  | ready (p : Predictor)
  | released
deriving DecidableEq, Repr

/-! ## The caller's interface -/

/-- Why a command was refused (R86): the closed set of reasons. -/
inductive RefusalReason where
  /-- R87. -/
  | reservedEncoding
  /-- R88. -/
  | notReady
  /-- R89. -/
  | badConfig
  /-- R90. -/
  | misaligned
  /-- R91. -/
  | statOverflow
deriving DecidableEq, Repr

/-- INIT's result (R53, R84). -/
inductive InitStatus where
  | ok
  | allocFail
deriving DecidableEq, Repr

/-- The response of a command (R53). -/
inductive Response where
  | init (status : InitStatus)
  | predict (taken : Bool) (target : Word)
  /-- Completion only: no response word. -/
  | update
  | getstats (predictions mispredictions hardwareBits : Stat)
deriving DecidableEq, Repr

/-- The instance parameters (R11), each taken as an argument of the machine (log 1). No command changes them. -/
structure Limits where
  maxBtbCapacity : Nat
  maxHistoryWidth : Nat
  maxTagWidth : Nat
deriving DecidableEq, Repr

/-- The whole machine. -/
structure State where
  /-- The instance parameters (R11; log 1). -/
  limits : Limits
  /-- `LC`, and with it the predictor (R17). -/
  lc : Lifecycle
  /-- The refusal mark, with the reason of the first refusal (R86, R92; log 3). -/
  refusal : Option RefusalReason
  /-- Words the caller has issued and the block has not taken, oldest first (R43, R47; log 5). -/
  pending : List Word
  /-- Every response returned, oldest first (R53, R110; log 8). -/
  responses : List Response
deriving DecidableEq, Repr

/-- The machine at power-on (R30, R102): `LC = Uninit`, nothing else of the block holds a value. The limits stay
open (log 1); no refusal yet (log 3), no word issued (log 5), no response returned (log 8). -/
def State.reset : State where
  limits :=
    { maxBtbCapacity := Config.maxBtbCapacity
      maxHistoryWidth := Config.maxHistoryWidth
      maxTagWidth := Config.maxTagWidth }
  lc := .uninit
  refusal := none
  pending := []
  responses := []

/-! ## How a step can stop -/

/-- The block raises no exception and has no trap (R85, R93, R94): there is no fault, and no constructor (log 15). -/
inductive Fault
deriving DecidableEq, Repr

/-- The host's refusals. The spec's own refusals are no stop but an effect on the mark: see `RefusalReason` (log 2). -/
inductive Refusal where
  /-- A command without a meaning yet, by its mnemonic. Raised by `exec` only, and by no arm of it. Safe. -/
  | notModelled (mnemonic : String)
deriving DecidableEq, Repr

end Sys2Proof.Machine
end

