-- ==== Sys2Proof/Machine/Operands.lean ====
section
/-! DEFINITION. The derived constants (R20) and what the block reads from an address operand: aligned address, index,
tag, sharing bits, fall-through, stored target (R36, R60 to R62, R65, R69, R70). All arithmetic is on unbounded unsigned
integers (R13), but for the 32-bit additions and the 30-bit target field. -/

namespace Sys2Proof.Machine

/-- `mask(n) = 2^n - 1` (R13). -/
def mask (n : Nat) : Nat := 2 ^ n - 1

/-- `clog2(n)`: the least `k` with `2^k >= n` (R13). -/
def clog2 (n : Nat) : Nat := if n ≤ 1 then 0 else Nat.log2 (n - 1) + 1

/-- `IB = clog2(CAP)` (R20). -/
def Configuration.indexBits (c : Configuration) : Nat := clog2 c.cap.toNat

/-- `NT = 2^HW`: the counters of one FSM table (R20). -/
def Configuration.tableSize (c : Configuration) : Nat := 2 ^ c.hw.toNat

/-- `NFSM`: the counters of the FSM storage (R20). -/
def Configuration.counterCount (c : Configuration) : Nat :=
  match c.ts with
  | .global => c.tableSize
  | .perSlot => c.cap.toNat * c.tableSize

/-- An address operand with bit 1 or bit 0 set (R36, R90). -/
def misaligned (x : Word) : Bool := x.getLsbD 0 || x.getLsbD 1

/-- The aligned address `a = pc >> 2` (R60). -/
def alignedAddress (pc : Word) : Nat := pc.toNat >>> Config.alignShift

/-- The BTB index `a mod CAP` (R61). -/
def Configuration.index (c : Configuration) (pc : Word) : Nat := alignedAddress pc % c.cap.toNat

/-- The tag `(a >> IB) & mask(TW)` (R62). -/
def Configuration.tag (c : Configuration) (pc : Word) : Nat :=
  (alignedAddress pc >>> c.indexBits) &&& mask c.tw.toNat

/-- The bits XORed into the history value (R65): none under `TS = Local` or `SM = None`. -/
def Configuration.shareBits (c : Configuration) (pc : Word) : Nat :=
  match c.ts, c.sm with
  | .perSlot, _ => 0
  | .global, .noShare => 0
  | .global, .lsbShare => alignedAddress pc &&& mask c.hw.toNat
  | .global, .midShare => (pc.toNat >>> Config.midShareShift) &&& mask c.hw.toNat

/-- The counter address `fsmAddr(i, hv)` (R34, R67). -/
def Configuration.fsmAddr (c : Configuration) (i hv : Nat) : Nat :=
  match c.ts with
  | .global => hv
  | .perSlot => i * c.tableSize + hv

/-- The fall-through address `add32(pc, 4)` (R70). -/
def fallthrough (pc : Word) : Word := pc + BitVec.ofNat 32 Config.fallthroughBytes

/-- The target field of an address: `atgt >> 2` (R76). -/
def targetField (x : Word) : Target := (x >>> Config.alignShift).setWidth 30

/-- The stored target `TGT << 2` (R69). -/
def Slot.storedTarget (sl : Slot) : Word := sl.tgt.setWidth 32 <<< Config.alignShift

end Sys2Proof.Machine
end

