-- ==== Sys2Proof/Machine/Flags.lean ====
section
/-! DEFINITION. The block has no flags (R16). Here are its one-bit decisions and its saturation arithmetic: the direction a
counter predicts (R68), the misprediction check (R75), the counter's two moves (R78, R79) and the history shift (R80). -/

namespace Sys2Proof

/-- The direction predicate: Weak-Taken and Strong-Taken predict taken (R68). -/
def FsmState.taken : FsmState → Bool
  | .snt => false
  | .wnt => false
  | .wt => true
  | .st => true

/-- One step toward taken, saturating at Strong-Taken (R78). -/
def FsmState.onTaken : FsmState → FsmState
  | .snt => .wnt
  | .wnt => .wt
  | .wt => .st
  | .st => .st

/-- One step toward not taken, saturating at Strong-Not-Taken (R79). -/
def FsmState.onNotTaken : FsmState → FsmState
  | .snt => .snt
  | .wnt => .snt
  | .wt => .wnt
  | .st => .wt

/-- The counter after an in-place update with outcome `t` (R77). -/
def FsmState.trained (c : FsmState) (t : Bool) : FsmState := if t then c.onTaken else c.onNotTaken

end Sys2Proof

namespace Sys2Proof.Machine

/-- `mispredicted(pc, T, ptgt) = ((ptgt != add32(pc, 4)) != T)` (R75). -/
def mispredicted (pc : Word) (t : Bool) (ptgt : Word) : Bool := (ptgt != fallthrough pc) != t

/-- A history register shifted by one outcome: `((h << 1) | T) & mask(HW)` (R80). -/
def Configuration.shifted (c : Configuration) (h : Nat) (t : Bool) : Nat :=
  ((h <<< 1) ||| t.toNat) &&& mask c.hw.toNat

end Sys2Proof.Machine
end

