-- ==== Sys2Proof/Machine/Ops.lean ====
section
/-! DEFINITION. The shared operations: reading and writing the two storages, refusing and responding, the lookup engine
(41_lookup.md), and the parts of UPDATE (43_update.md). The block takes no exception (R94): the one way a command is turned
away is `State.refuse`. -/

namespace Sys2Proof.Machine

/-! ## Storage (R14, R33; log 10) -/

/-- The value of number `i`: what is listed for it, else `d`. -/
def Cells.read {α : Type} (d : α) : Cells α → Nat → α
  | [], _ => d
  | (k, x) :: cs, i => if k = i then x else Cells.read d cs i

/-- List `(i, x)` before the first larger number. -/
def Cells.insert {α : Type} (i : Nat) (x : α) : Cells α → Cells α
  | [] => [(i, x)]
  | (k, y) :: cs => if k < i then (k, y) :: Cells.insert i x cs else (i, x) :: (k, y) :: cs

/-- Number `i` set to `x`. An entry equal to `d` is not listed. -/
def Cells.write {α : Type} [DecidableEq α] (d : α) (cs : Cells α) (i : Nat) (x : α) : Cells α :=
  if x = d then cs.filter (fun e => e.1 != i)
  else Cells.insert i x (cs.filter (fun e => e.1 != i))

/-- The `n` numbers from `lo` set to what an unlisted number reads as. -/
def Cells.clear {α : Type} (cs : Cells α) (lo n : Nat) : Cells α :=
  cs.filter (fun e => !(decide (lo ≤ e.1) && decide (e.1 < lo + n)))

/-- The canonical form: numbers strictly rising and below `bound`, no entry equal to `d`. -/
abbrev Cells.Wf {α : Type} (d : α) (bound : Nat) (cs : Cells α) : Prop :=
  cs.Pairwise (fun a b => a.1 < b.1) ∧ ∀ e ∈ cs, e.1 < bound ∧ e.2 ≠ d

/-! ## Slots and counters -/

/-- `BTB[i]` (R14, R21). -/
def Predictor.slot (p : Predictor) (i : Nat) : Slot := Cells.read Slot.cleared p.btb i

/-- `BTB[i] <- sl`. -/
def Predictor.setSlot (p : Predictor) (i : Nat) (sl : Slot) : Predictor :=
  { p with btb := Cells.write Slot.cleared p.btb i sl }

/-- `FSM[j]` (R14, R25). -/
def Predictor.counter (p : Predictor) (j : Nat) : FsmState := Cells.read p.cfg.ifs p.fsm j

/-- `FSM[j] <- c`. -/
def Predictor.setCounter (p : Predictor) (j : Nat) (c : FsmState) : Predictor :=
  { p with fsm := Cells.write p.cfg.ifs p.fsm j c }

/-- `FSM[i * NT + k] <- IFS` for every `k < NT`: slot `i`'s private table reset (R76). -/
def Predictor.resetTable (p : Predictor) (i : Nat) : Predictor :=
  { p with fsm := Cells.clear p.fsm (i * p.cfg.tableSize) p.cfg.tableSize }

/-- The predictor right after a successful INIT (R31, R58): every slot cleared, every counter IFS, the rest 0. -/
def Predictor.fresh (c : Configuration) : Predictor :=
  { cfg := c, btb := [], fsm := [], ghr := 0, npred := 0, nmisp := 0 }

/-! ## The lookup engine (R63, R64, R67, R71) -/

/-- What a lookup answers (R71). `counter` is the counter address of a hit, `none` on a miss. -/
structure Lookup where
  idx : Nat
  tag : Nat
  counter : Option Nat
deriving DecidableEq, Repr

/-- The hit test (R63). -/
def Predictor.hit (p : Predictor) (pc : Word) : Bool :=
  (p.slot (p.cfg.index pc)).v && (p.slot (p.cfg.index pc)).tag == p.cfg.tag pc

/-- The history selected for slot `i`: its `LH` under HS = Local, else `GHR` (R64). -/
def Predictor.history (p : Predictor) (i : Nat) : Nat :=
  match p.cfg.hs with
  | .perSlot => (p.slot i).lh
  | .global => p.ghr

/-- The history value after sharing, `hv` (R65). -/
def Predictor.historyValue (p : Predictor) (pc : Word) : Nat :=
  p.history (p.cfg.index pc) ^^^ p.cfg.shareBits pc

/-- The combined lookup (R71). -/
def Predictor.lookup (p : Predictor) (pc : Word) : Lookup :=
  { idx := p.cfg.index pc
    tag := p.cfg.tag pc
    counter := if p.hit pc then some (p.cfg.fsmAddr (p.cfg.index pc) (p.historyValue pc)) else none }

/-- PREDICT's answer: direction and target (R72). -/
def Predictor.prediction (p : Predictor) (pc : Word) : Bool × Word :=
  match (p.lookup pc).counter with
  | some j =>
    if (p.counter j).taken then (true, (p.slot (p.lookup pc).idx).storedTarget)
    else (false, fallthrough pc)
  | none => (false, fallthrough pc)

/-! ## The parts of UPDATE -/

/-- The allocation path (R76). -/
def Predictor.allocate (p : Predictor) (idx tag : Nat) (atgt : Word) : Predictor :=
  let lh := match p.cfg.hs with
    | .perSlot => 0
    | .global => (p.slot idx).lh
  let q := p.setSlot idx { v := true, tag := tag, tgt := targetField atgt, lh := lh }
  match p.cfg.ts with
  | .perSlot => q.resetTable idx
  | .global => q

/-- The in-place path (R77). -/
def Predictor.updateInPlace (p : Predictor) (idx j : Nat) (t : Bool) (atgt : Word) : Predictor :=
  (p.setCounter j ((p.counter j).trained t)).setSlot idx { p.slot idx with tgt := targetField atgt }

/-- The history step, on both paths (R80). -/
def Predictor.shiftHistory (p : Predictor) (idx : Nat) (t : Bool) : Predictor :=
  match p.cfg.hs with
  | .global => { p with ghr := p.cfg.shifted p.ghr t }
  | .perSlot => p.setSlot idx { p.slot idx with lh := p.cfg.shifted (p.slot idx).lh t }

/-- `NMISP <- NMISP + 1` where the command was mispredicted (R74). -/
def Predictor.countMispredict (p : Predictor) (mis : Bool) : Predictor :=
  if mis then { p with nmisp := p.nmisp + 1 } else p

/-- Everything UPDATE does to the predictor (R74). -/
def Predictor.resolved (p : Predictor) (pc atgt : Word) (t : Bool) (ptgt : Word) : Predictor :=
  let l := p.lookup pc
  let q := p.countMispredict (mispredicted pc t ptgt)
  let r := match l.counter with
    | some j => q.updateInPlace l.idx j t atgt
    | none => q.allocate l.idx l.tag atgt
  r.shiftHistory l.idx t

/-! ## The storage cost (R83) -/

/-- `hardwareBits()`, an unbounded integer (R82, R83). -/
def Configuration.hardwareBits (c : Configuration) : Nat :=
  c.cap.toNat * (Config.validBits + c.tw.toNat + Config.targetFieldBits)
    + (match c.hs with
      | .global => c.hw.toNat
      | .perSlot => c.hw.toNat * c.cap.toNat)
    + (match c.ts with
      | .global => Config.counterBits * c.tableSize
      | .perSlot => Config.counterBits * c.tableSize * c.cap.toNat)

/-- `2^STAT_WIDTH - 1`: the largest count (R91). -/
def statMax : Nat := 2 ^ Config.statWidth - 1

/-! ## Refusing and responding -/

/-- `refuse(reason)` (R14, R86): nothing changes but the mark, and a mark already set stays (log 2, log 3). -/
def State.refuse (s : State) (r : RefusalReason) : State :=
  { s with refusal := some (s.refusal.getD r) }

/-- `respond(...)` (R14, R53; log 8). -/
def State.respond (s : State) (r : Response) : State :=
  { s with responses := s.responses ++ [r] }

/-- The lifecycle, and with it the predictor, replaced (R17). -/
def State.setLc (s : State) (lc : Lifecycle) : State := { s with lc := lc }

/-- A command that needs `LC = Ready` (R88): refused otherwise. -/
def State.ifReady (s : State) (k : Predictor → State) : State :=
  match s.lc with
  | .ready p => k p
  | .uninit => s.refuse .notReady
  | .released => s.refuse .notReady

/-- The instance has storage for this configuration (R84, decision D14). -/
def Limits.admits (l : Limits) (cap hw tw : Word) : Bool :=
  decide (cap.toNat ≤ l.maxBtbCapacity) && decide (hw.toNat ≤ l.maxHistoryWidth) && decide (tw.toNat ≤ l.maxTagWidth)

end Sys2Proof.Machine
end

