-- ==== Sys2Proof/Machine/Branch.lean ====
section
/-! DEFINITION. The two commands of each branch: PREDICT (42_predict.md) and UPDATE (43_update.md). -/

namespace Sys2Proof.Machine

/-- PREDICT (R72): direction and target, and `NPRED + 1`. Refusals in the order of R92. -/
def execPredict (pc : Word) (s : State) : Host.Outcome State Fault Refusal :=
  .next (s.ifReady fun p =>
    if misaligned pc then s.refuse .misaligned
    else if p.npred.toNat = statMax then s.refuse .statOverflow
    else (s.setLc (.ready { p with npred := p.npred + 1 })).respond
      (.predict (p.prediction pc).1 (p.prediction pc).2))

/-- UPDATE (R74): the misprediction count, the slot and its counters, the history. Refusals in the order of R92. -/
def execUpdate (pc atgt : Word) (taken : Bool) (ptgt : Word) (s : State) : Host.Outcome State Fault Refusal :=
  .next (s.ifReady fun p =>
    if misaligned pc || misaligned atgt || misaligned ptgt then s.refuse .misaligned
    else if mispredicted pc taken ptgt ∧ p.nmisp.toNat = statMax then s.refuse .statOverflow
    else (s.setLc (.ready (p.resolved pc atgt taken ptgt))).respond .update)

end Sys2Proof.Machine
end

