-- ==== Sys2Proof/Machine/Lifecycle.lean ====
section
/-! DEFINITION. The two commands of the lifecycle: INIT (40_init.md) and GETSTATS (44_getstats.md). -/

namespace Sys2Proof.Machine

/-- INIT (R58). Refused for the reserved sharing code and for `cap = 0`, in the order of R92; never for `LC`. ALLOC_FAIL
leaves no predictor (R32, R84). -/
def execInit (cap hw tw : Word) (ifs : FsmState) (hs ts : Scope) (sm : SharingField) (s : State) :
    Host.Outcome State Fault Refusal :=
  match sm with
  | .reserved => .next (s.refuse .reservedEncoding)
  | .mode m =>
    if cap = 0 then .next (s.refuse .badConfig)
    else if s.limits.admits cap hw tw then
      .next ((s.setLc (.ready (Predictor.fresh
        { cap := cap, hw := hw, tw := tw, ifs := ifs, hs := hs, ts := ts, sm := m }))).respond (.init .ok))
    else .next ((s.setLc .uninit).respond (.init .allocFail))

/-- GETSTATS (R82): the counts and the storage cost, then `LC = Released` with nothing left (R32). -/
def execGetstats (s : State) : Host.Outcome State Fault Refusal :=
  .next (s.ifReady fun p =>
    if p.cfg.hardwareBits > statMax then s.refuse .statOverflow
    else (s.setLc .released).respond (.getstats p.npred p.nmisp (BitVec.ofNat 32 p.cfg.hardwareBits)))

end Sys2Proof.Machine
end

