-- ==== Sys2Proof/Machine/Dispatch.lean ====
section
/-! DEFINITION. The meaning of every command: one arm per constructor of `Instr`. -/

namespace Sys2Proof.Machine

def exec (i : Instr) (s : State) : Host.Outcome State Fault Refusal :=
  match i with
  | .init cap hw tw ifs hs ts sm => Sys2Proof.Machine.execInit cap hw tw ifs hs ts sm s
  | .predict pc => Sys2Proof.Machine.execPredict pc s
  | .update pc atgt taken ptgt => Sys2Proof.Machine.execUpdate pc atgt taken ptgt s
  | .getstats => Sys2Proof.Machine.execGetstats s

end Sys2Proof.Machine
end

