-- ==== Sys2Proof/Machine/Step.lean ====
section
/-! DEFINITION. One step: take the caller's next command and run it (R8, R43). -/

namespace Sys2Proof.Machine

/-- One command (R8). A reserved command word is refused (R87); the words of a command, refused or not, are taken
(log 7). With no whole command waiting nothing happens (R93; log 6). -/
def step (s : State) : Host.Outcome State Fault Refusal :=
  match decode s.pending with
  | .incomplete => .next s
  | .rejected _ rest => .next ({ s with pending := rest }.refuse .reservedEncoding)
  | .command i rest => exec i { s with pending := rest }

/-- The caller issues the command of a table row's bits next, before the words already waiting (log 5, log 12). -/
def State.withFetchWord (s : State) (nbits w : Nat) : State :=
  { s with pending := tableCommand nbits w ++ s.pending }

end Sys2Proof.Machine
end

