-- ==== Sys2Proof/Safety.lean ====
section
/-! DEFINITION. The terms claims use: the refusal mark as a premise (R86), the invariant of the state (R29), sequences of
commands, and what a run shows (R110). -/

namespace Sys2Proof.Machine

/-- No refusal mark: the premise R86 asks of a claim about a command sequence. -/
def State.clean (s : State) : Prop := s.refusal = none

/-! ## The invariant (R18, R20, R29; log 9, log 10) -/

/-- The configuration registers hold legal values (R18). -/
structure Configuration.Legal (l : Limits) (c : Configuration) : Prop where
  cap_pos : 1 ≤ c.cap.toNat
  cap_le : c.cap.toNat ≤ l.maxBtbCapacity
  hw_le : c.hw.toNat ≤ l.maxHistoryWidth
  tw_le : c.tw.toNat ≤ l.maxTagWidth

/-- A slot's fields fit their widths, an invalid slot holds what INIT gave it (R29), and `LH` stays 0 where it does not
exist (R23). -/
structure Slot.Fits (c : Configuration) (sl : Slot) : Prop where
  tag_lt : sl.tag < 2 ^ c.tw.toNat
  lh_lt : sl.lh < 2 ^ c.hw.toNat
  invalid : sl.v = false → sl = Slot.cleared
  no_lh : c.hs = .global → sl.lh = 0

/-- The invariant of a predictor (R29): legal configuration, every listed slot below CAP and every listed counter below
NFSM, both storages in canonical form, every field within its width, `GHR` still 0 where it is not used (R26). -/
structure Predictor.Inv (l : Limits) (p : Predictor) : Prop where
  legal : p.cfg.Legal l
  btb_wf : Cells.Wf Slot.cleared p.cfg.cap.toNat p.btb
  fsm_wf : Cells.Wf p.cfg.ifs p.cfg.counterCount p.fsm
  slots : ∀ i, (p.slot i).Fits p.cfg
  ghr_lt : p.ghr < 2 ^ p.cfg.hw.toNat
  no_ghr : p.cfg.hs = .perSlot → p.ghr = 0

/-- The invariant of the machine: the instance has room for a slot (R11), and a predictor that exists is in order. -/
structure State.Inv (s : State) : Prop where
  room : 1 ≤ s.limits.maxBtbCapacity
  ready : ∀ p, s.lc = .ready p → p.Inv s.limits

/-! ## Sequences of commands -/

/-- The commands `is`, one after the other, stopping at the first that stops. -/
def runCommands : List Instr → State → Host.Outcome State Fault Refusal
  | [], s => .next s
  | i :: is, s =>
    match exec i s with
    | .next t => runCommands is t
    | .fault r => .fault r
    | .refused r => .refused r

/-- The commands `is` taken as updates, with their outcomes: `(pc, actualTarget, taken, predictedTarget)`. -/
def updates (us : List (Word × Word × Bool × Word)) : List Instr :=
  us.map fun u => .update u.1 u.2.1 u.2.2.1 u.2.2.2

/-! ## Runs and what they show (R53, R110; log 17) -/

/-- The response words `RSP0, RSP1, RSP2` of a response (R53). -/
def Response.words : Response → List Word
  | .init .ok => [0]
  | .init .allocFail => [1]
  | .predict taken target => [if taken then 1 else 0, target]
  | .update => []
  | .getstats predictions mispredictions hardwareBits => [predictions, mispredictions, hardwareBits]

/-- The responses of the current run: from the last successful INIT on (R110). -/
def currentRun (rs : List Response) : List Response :=
  rs.foldl (fun run r => if r = .init .ok then [r] else run ++ [r]) []

/-- The response is PREDICT's. -/
def Response.isPredict : Response → Bool
  | .predict _ _ => true
  | .init _ => false
  | .update => false
  | .getstats _ _ _ => false

/-- How many PREDICT responses are in `rs`. -/
def predictCount (rs : List Response) : Nat := rs.countP Response.isPredict

/-- The observation of a run that has ended: nothing where the refusal mark is set or the run has not ended (R110). -/
def State.observation (s : State) : Option (List Response) :=
  match s.refusal, s.lc with
  | none, .released => some (currentRun s.responses)
  | none, .uninit => none
  | none, .ready _ => none
  | some _, _ => none

/-- `NPRED` is the number of PREDICT commands answered since the INIT (R97). -/
def State.CountsPredictions (s : State) : Prop :=
  ∀ p, s.lc = .ready p → p.npred.toNat = predictCount (currentRun s.responses)

end Sys2Proof.Machine
end

