-- ==== Sys2Proof/Certificates/Slice0/Obligations.lean ====
section
/-! DEFINITION. The statements for the provers. Numbers are written as the spec writes them: `pc / 4` for `pc >> 2`,
`% 2 ^ n` for `& mask(n)`. -/

open Sys2Proof Sys2Proof.Machine

/-! ## Encoding (30_encoding.md) -/

/-- R57: the words of each form, and its example. -/
def Obligations.EncodeWritesTheWordsOfEachForm : Prop :=
  (∀ cap hw tw ifs hs ts sm,
    encode (.init cap hw tw ifs hs ts sm) =
      [0x001 ||| (ifs.code.setWidth 32 <<< 3) ||| (hs.code.setWidth 32 <<< 5) ||| (ts.code.setWidth 32 <<< 6) |||
        (sm.code.setWidth 32 <<< 7), cap, hw, tw]) ∧
  encode (.init 1 1 0 .wt .global .global (.mode .noShare)) = [0x00000011, 1, 1, 0] ∧
  (∀ pc, encode (.predict pc) = [0x00000002, pc]) ∧
  (∀ pc atgt ptgt, encode (.update pc atgt true ptgt) = [0x0000000B, pc, atgt, ptgt]) ∧
  (∀ pc atgt ptgt, encode (.update pc atgt false ptgt) = [0x00000003, pc, atgt, ptgt]) ∧
  encode .getstats = [0x00000004]

/-- 95_test_vectors.md E1 to E11: a sanity statement about written-out words. -/
def Obligations.WrittenOutWordsDecode : Prop :=
  decode [0x00000011, 1, 1, 0] = .command (.init 1 1 0 .wt .global .global (.mode .noShare)) [] ∧
  decode [0x00000069, 2, 2, 1] = .command (.init 2 2 1 .wnt .perSlot .perSlot (.mode .noShare)) [] ∧
  decode [0x00000131, 2, 2, 4] = .command (.init 2 2 4 .wt .perSlot .global (.mode .midShare)) [] ∧
  decode [0x00000189, 1, 1, 0] = .rejected .reservedSharing [] ∧
  decode [0x00000201, 1, 1, 0] = .rejected .reservedBits [] ∧
  decode [0x00000002, 0x4C] = .command (.predict 0x4C) [] ∧
  decode [0x0000000A, 0x4C] = .rejected .reservedBits [] ∧
  decode [0x0000000B, 0, 100, 4, 2] = .command (.update 0 100 true 4) [2] ∧
  decode [0x00000003, 0, 100, 4] = .command (.update 0 100 false 4) [] ∧
  decode [0x00000013, 0, 100, 4] = .rejected .reservedBits [] ∧
  decode [0x00000004, 7] = .command .getstats [7] ∧
  decode [0x00000000] = .rejected .reservedOp [] ∧
  decode [0x00000005] = .rejected .reservedOp [] ∧
  decode [0x00000006] = .rejected .reservedOp [] ∧
  decode [0x00000007] = .rejected .reservedOp []

/-- Decode of encode is the command, with whatever words follow it, for every well-formed command at every operand. The
one ill-formed form, an INIT with the reserved sharing code, is rejected by name (R55). -/
def Obligations.DecodeOfEncodeIsTheCommand : Prop :=
  ∀ (i : Instr) (rest : List Word),
    (i.wellFormed = true → decode (encode i ++ rest) = .command i rest) ∧
    (i.wellFormed = false → decode (encode i ++ rest) = .rejected .reservedSharing rest)

/-- Each command has one spelling: words that decode to a command are that command's own words. -/
def Obligations.DecodedWordsAreTheCommandsOwn : Prop :=
  ∀ (ws : List Word) (i : Instr) (rest : List Word),
    decode ws = .command i rest → i.wellFormed = true ∧ ws = encode i ++ rest

/-- R55: a command word with a reserved OP, a reserved bit set, or SM = 3 is refused ReservedEncoding, with no other
effect; every other word, with the operand words its OP asks for, is one of the four commands. The form of a refusal,
and that the refused command's words are taken off the waiting words, are the model's choices (log 2, log 3, log 7). -/
def Obligations.ReservedEncodingsAreRefused : Prop :=
  ∀ (s : State) (w0 : Word) (args rest : List Word),
    s.pending = w0 :: (args ++ rest) →
    args.length = (if w0.toNat % 8 = 1 ∨ w0.toNat % 8 = 3 then 3 else if w0.toNat % 8 = 2 then 1 else 0) →
    let reserved : Prop :=
      (w0.toNat % 8 = 0 ∨ w0.toNat % 8 = 5 ∨ w0.toNat % 8 = 6 ∨ w0.toNat % 8 = 7) ∨
      (w0.toNat % 8 = 1 ∧ w0.toNat / 2 ^ 9 ≠ 0) ∨
      ((w0.toNat % 8 = 2 ∨ w0.toNat % 8 = 4) ∧ w0.toNat / 2 ^ 3 ≠ 0) ∨
      (w0.toNat % 8 = 3 ∧ w0.toNat / 2 ^ 4 ≠ 0) ∨
      (w0.toNat % 8 = 1 ∧ w0.toNat / 2 ^ 7 % 4 = 3)
    (reserved →
      step s = .next { s with pending := rest, refusal := some (s.refusal.getD .reservedEncoding) }) ∧
    (¬ reserved →
      ∃ i, i.wellFormed = true ∧ encode i = w0 :: args ∧ step s = exec i { s with pending := rest })

/-! ## Steps -/

/-- A step runs the command its waiting words decode to, with those words taken. -/
def Obligations.StepRunsTheDecodedCommand : Prop :=
  ∀ (s : State) (i : Instr) (rest : List Word),
    decode s.pending = .command i rest → step s = exec i { s with pending := rest }

/-- With no whole command waiting a step changes nothing. The model's choice (log 6). -/
def Obligations.StepWaitsForAWholeCommand : Prop :=
  ∀ (s : State),
    (s.pending = [] → step s = .next s) ∧
    (∀ w0 args, s.pending = w0 :: args → (w0.toNat % 8 = 1 ∨ w0.toNat % 8 = 3) → args.length < 3 → step s = .next s) ∧
    (∀ w0, s.pending = [w0] → w0.toNat % 8 = 2 → step s = .next s)

/-- The command of a table row's bits, put where the block takes its next command, is what the next step runs. The
layout of those bits is the model's reading of the host's numbering (log 12). -/
def Obligations.FetchedTableWordRuns : Prop :=
  ∀ (s : State) (nbits w : Nat) (i : Instr),
    decodeTableWord nbits w = some i → step (s.withFetchWord nbits w) = exec i s

/-- The block raises no exception and no command but INIT can fail (R85): every step answers a next state. That a
refusal and a step with no whole command waiting are next states too is the model's choice (log 2, log 6). -/
def Obligations.EveryStepAnswersANextState : Prop :=
  ∀ s : State, ∃ t, step s = .next t

/-- R53, R86: every command either returns exactly one response, of its own kind, and leaves the mark alone, or is
refused: then nothing changes but the mark, and a mark already set stays as it is. The form of a refusal is the model's
choice (log 2, log 3). -/
def Obligations.EveryCommandRespondsOnceOrIsRefused : Prop :=
  ∀ (i : Instr) (s : State), ∃ t, exec i s = .next t ∧ t.limits = s.limits ∧ t.pending = s.pending ∧
    ((∃ reason, t = { s with refusal := some (s.refusal.getD reason) }) ∨
     (t.refusal = s.refusal ∧ ∃ r, t.responses = s.responses ++ [r] ∧
       match i with
       | .init _ _ _ _ _ _ _ => ∃ status, r = .init status
       | .predict _ => ∃ taken target, r = .predict taken target
       | .update _ _ _ _ => r = .update
       | .getstats => ∃ n m b, r = .getstats n m b))

/-- R86: the mark, once set, is never cleared or changed, whatever the step. That it keeps its reason is the model's
choice (log 3). -/
def Obligations.RefusalMarkIsNeverCleared : Prop :=
  ∀ (s t : State) (reason : RefusalReason), s.refusal = some reason → step s = .next t → t.refusal = some reason

/-! ## INIT and the lifecycle -/

/-- R30: at power-on LC = Uninit, and no predictor state holds a value. -/
def Obligations.PowerOnHoldsNoPredictor : Prop :=
  State.reset.lc = .uninit ∧ ∀ p, State.reset.lc ≠ .ready p

/-- R31: a legal INIT completes, whatever LC was, and leaves exactly the values of the table. -/
def Obligations.InitConfiguresAndClears : Prop :=
  ∀ (s : State) (cap hw tw : Word) (ifs : FsmState) (hs ts : Scope) (m : SharingMode),
    1 ≤ cap.toNat → cap.toNat ≤ s.limits.maxBtbCapacity → hw.toNat ≤ s.limits.maxHistoryWidth →
    tw.toNat ≤ s.limits.maxTagWidth →
    ∃ p : Predictor,
      exec (.init cap hw tw ifs hs ts (.mode m)) s =
        .next { s with lc := .ready p, responses := s.responses ++ [.init .ok] } ∧
      p.cfg = { cap := cap, hw := hw, tw := tw, ifs := ifs, hs := hs, ts := ts, sm := m } ∧
      (∀ i, i < cap.toNat →
        (p.slot i).v = false ∧ (p.slot i).tag = 0 ∧ (p.slot i).tgt = 0 ∧ (p.slot i).lh = 0) ∧
      (∀ j, j < (if ts = .global then 2 ^ hw.toNat else cap.toNat * 2 ^ hw.toNat) → p.counter j = ifs) ∧
      p.ghr = 0 ∧ p.npred = 0 ∧ p.nmisp = 0

/-- R84: INIT answers ALLOC_FAIL, RSP0 = 1, exactly when an operand is beyond the instance, leaving LC = Uninit and
nothing else of the block; no other command answers it; and after it every other command is refused NotReady. That a
refusal is a next state with the mark set, keeping the first reason, is the model's choice (log 2, log 3). -/
def Obligations.AllocFailExactlyBeyondTheInstance : Prop :=
  (∀ (s : State) (cap hw tw : Word) (ifs : FsmState) (hs ts : Scope) (m : SharingMode),
    1 ≤ cap.toNat →
    ((s.limits.maxBtbCapacity < cap.toNat ∨ s.limits.maxHistoryWidth < hw.toNat ∨ s.limits.maxTagWidth < tw.toNat) ↔
      exec (.init cap hw tw ifs hs ts (.mode m)) s =
        .next { s with lc := .uninit, responses := s.responses ++ [.init .allocFail] })) ∧
  (Response.init .allocFail).words = [1] ∧ (Response.init .ok).words = [0] ∧
  (∀ (i : Instr) (s t : State), exec i s = .next t → t.responses = s.responses ++ [.init .allocFail] →
    t.lc = .uninit ∧ ∃ cap hw tw ifs hs ts m, i = .init cap hw tw ifs hs ts (.mode m)) ∧
  (∀ (i : Instr) (s : State), s.lc = .uninit → (∀ cap hw tw ifs hs ts sm, i ≠ .init cap hw tw ifs hs ts sm) →
    exec i s = .next { s with refusal := some (s.refusal.getD .notReady) })

/-- R89, with the order of R92: INIT with cap = 0 is refused BadConfig; the reserved sharing code comes first.
The form of a refusal is the model's choice (log 2, log 3). -/
def Obligations.InitRefusesBadOperands : Prop :=
  ∀ (s : State) (cap hw tw : Word) (ifs : FsmState) (hs ts : Scope),
    (∀ m, exec (.init 0 hw tw ifs hs ts (.mode m)) s =
      .next { s with refusal := some (s.refusal.getD .badConfig) }) ∧
    exec (.init cap hw tw ifs hs ts .reserved) s =
      .next { s with refusal := some (s.refusal.getD .reservedEncoding) }

/-- R88: outside LC = Ready every command but INIT is refused NotReady, whatever its operands. The form of a refusal is
the model's choice (log 2, log 3). -/
def Obligations.OutsideReadyOnlyInitIsAccepted : Prop :=
  ∀ s : State, (s.lc = .uninit ∨ s.lc = .released) →
    (∀ pc, exec (.predict pc) s = .next { s with refusal := some (s.refusal.getD .notReady) }) ∧
    (∀ pc atgt taken ptgt,
      exec (.update pc atgt taken ptgt) s = .next { s with refusal := some (s.refusal.getD .notReady) }) ∧
    exec .getstats s = .next { s with refusal := some (s.refusal.getD .notReady) }

/-- R59: only INIT writes the configuration registers. A predictor that another command leaves has the configuration it
found. -/
def Obligations.OnlyInitWritesTheConfiguration : Prop :=
  ∀ (i : Instr) (s t : State) (q : Predictor),
    (∀ cap hw tw ifs hs ts sm, i ≠ .init cap hw tw ifs hs ts sm) → exec i s = .next t → t.lc = .ready q →
    ∃ p, s.lc = .ready p ∧ q.cfg = p.cfg

/-- R59: after an INIT, nothing from before it matters. Two machines of the same instance, with the same words waiting,
that run the same INIT then take the same steps with the same responses, for ever. -/
def Obligations.InitForgetsThePast : Prop :=
  ∀ (s1 s2 t1 t2 : State) (cap hw tw : Word) (ifs : FsmState) (hs ts : Scope) (m : SharingMode),
    s1.limits = s2.limits → s1.pending = s2.pending → 1 ≤ cap.toNat →
    exec (.init cap hw tw ifs hs ts (.mode m)) s1 = .next t1 →
    exec (.init cap hw tw ifs hs ts (.mode m)) s2 = .next t2 →
    ∀ n : Nat, ∃ (u1 u2 : State) (rs : List Response),
      Sys2Proof.core.run n t1 = .next u1 ∧ Sys2Proof.core.run n t2 = .next u2 ∧
      u1.lc = u2.lc ∧ u1.pending = u2.pending ∧
      u1.responses = s1.responses ++ rs ∧ u2.responses = s2.responses ++ rs

/-! ## GETSTATS -/

/-- R83: the storage cost, and its two examples. -/
def Obligations.HardwareBitsFormula : Prop :=
  (∀ c : Configuration,
    c.hardwareBits = c.cap.toNat * (1 + c.tw.toNat + 30)
      + (if c.hs = .global then c.hw.toNat else c.hw.toNat * c.cap.toNat)
      + (if c.ts = .global then 2 * 2 ^ c.hw.toNat else 2 * 2 ^ c.hw.toNat * c.cap.toNat)) ∧
  (∀ ifs m, Configuration.hardwareBits ⟨1, 1, 0, ifs, .global, .global, m⟩ = 36) ∧
  (∀ ifs m, Configuration.hardwareBits ⟨4, 2, 3, ifs, .perSlot, .perSlot, m⟩ = 176)

/-- GETSTATS completes: it answers the two counts and the storage cost and ends the lifecycle; nothing else changes. -/
def Obligations.GetstatsReportsAndReleases : Prop :=
  ∀ (s : State) (p : Predictor), s.lc = .ready p → p.cfg.hardwareBits ≤ 2 ^ 32 - 1 →
    ∃ bits : Stat, bits.toNat = p.cfg.hardwareBits ∧
      exec .getstats s =
        .next { s with lc := .released, responses := s.responses ++ [.getstats p.npred p.nmisp bits] }

/-! ## The lookup engine (41_lookup.md) -/

/-- R13, R20: clog2(n) is the least k with 2^k >= n. -/
def Obligations.ClogIsTheLeastExponent : Prop :=
  ∀ n k : Nat, n ≤ 2 ^ k ↔ clog2 n ≤ k

/-- R61: the index is a mod CAP, always in range; the low IB bits of a when CAP is a power of two. -/
def Obligations.IndexIsTheRemainder : Prop :=
  ∀ (c : Configuration) (pc : Word),
    (1 ≤ c.cap.toNat → c.index pc = pc.toNat / 4 % c.cap.toNat ∧ c.index pc < c.cap.toNat) ∧
    (∀ k, c.cap.toNat = 2 ^ k → c.indexBits = k ∧ ∀ b, (c.index pc).testBit b = (decide (b < k) && pc.toNat.testBit (b + 2))) ∧
    (c.cap.toNat = 1 → c.index pc = 0)

/-- R62: the tag is the TW bits of a above the IB index bits; positions of a at 30 or above read as 0. -/
def Obligations.TagIsTheBitsAboveTheIndex : Prop :=
  ∀ (c : Configuration) (pc : Word) (ib : Nat), (∀ k, c.cap.toNat ≤ 2 ^ k ↔ ib ≤ k) →
    c.tag pc = pc.toNat / 4 / 2 ^ ib % 2 ^ c.tw.toNat ∧
    (∀ b, (c.tag pc).testBit b = (decide (b < c.tw.toNat) && pc.toNat.testBit (b + ib + 2))) ∧
    (∀ b, 30 ≤ b + ib → (c.tag pc).testBit b = false) ∧
    (c.tw.toNat = 0 → c.tag pc = 0)

/-- R65: the sharing bits of each mode, bit by bit, and that the history value stays below 2^HW. -/
def Obligations.SharingBitsOfEachMode : Prop :=
  ∀ (c : Configuration) (pc : Word),
    (c.sm = .noShare ∨ c.ts = .perSlot → c.shareBits pc = 0) ∧
    (c.sm = .lsbShare → c.ts = .global →
      ∀ b, (c.shareBits pc).testBit b = (decide (b < c.hw.toNat) && pc.toNat.testBit (b + 2))) ∧
    (c.sm = .midShare → c.ts = .global →
      ∀ b, (c.shareBits pc).testBit b = (decide (b < c.hw.toNat) && pc.toNat.testBit (b + 16))) ∧
    (∀ p : Predictor, p.cfg = c → p.history (c.index pc) < 2 ^ c.hw.toNat →
      p.historyValue pc = p.history (c.index pc) ^^^ c.shareBits pc ∧ p.historyValue pc < 2 ^ c.hw.toNat)

/-- R34: the counter address, its second form, and that it is below NFSM. -/
def Obligations.CounterAddressIsInRange : Prop :=
  ∀ (c : Configuration) (i hv : Nat), i < c.cap.toNat → hv < 2 ^ c.hw.toNat →
    (c.ts = .global → c.fsmAddr i hv = hv ∧ c.fsmAddr i hv < 2 ^ c.hw.toNat) ∧
    (c.ts = .perSlot →
      c.fsmAddr i hv = i * 2 ^ c.hw.toNat + hv ∧ c.fsmAddr i hv = ((i <<< c.hw.toNat) ||| hv) ∧
      c.fsmAddr i hv < c.cap.toNat * 2 ^ c.hw.toNat)

/-- R71: the whole lookup, from the fields of the pc and the state it names. -/
def Obligations.LookupFollowsTheSpec : Prop :=
  ∀ (p : Predictor) (pc : Word) (ib : Nat), (∀ k, p.cfg.cap.toNat ≤ 2 ^ k ↔ ib ≤ k) →
    let a := pc.toNat / 4
    let idx := a % p.cfg.cap.toNat
    let tag := a / 2 ^ ib % 2 ^ p.cfg.tw.toNat
    let hv0 := if p.cfg.hs = .perSlot then (p.slot idx).lh else p.ghr
    let sb :=
      if p.cfg.ts = .perSlot ∨ p.cfg.sm = .noShare then 0
      else if p.cfg.sm = .lsbShare then a % 2 ^ p.cfg.hw.toNat
      else pc.toNat / 2 ^ 16 % 2 ^ p.cfg.hw.toNat
    let hv := hv0 ^^^ sb
    let j := if p.cfg.ts = .global then hv else idx * 2 ^ p.cfg.hw.toNat + hv
    (p.lookup pc).idx = idx ∧ (p.lookup pc).tag = tag ∧
    ((p.slot idx).v = true ∧ (p.slot idx).tag = tag → (p.lookup pc).counter = some j) ∧
    (¬ ((p.slot idx).v = true ∧ (p.slot idx).tag = tag) → (p.lookup pc).counter = none)

/-- R85: in a state that meets the invariant every index and counter address a lookup computes is in range. -/
def Obligations.LookupStaysInsideTheStorage : Prop :=
  ∀ (l : Limits) (p : Predictor) (pc : Word) (j : Nat), p.Inv l → (p.lookup pc).counter = some j →
    (p.lookup pc).idx < p.cfg.cap.toNat ∧ j < p.cfg.counterCount ∧
    (p.cfg.ts = .perSlot → j / 2 ^ p.cfg.hw.toNat = (p.lookup pc).idx)

/-- R66: with a power-of-two capacity and a history no wider than index and tag together, every pc of one index and tag
has the same LSB-share bits; with 14 more bits of room, the same Mid-share bits. -/
def Obligations.SharingBitsAreFixedPerSlot : Prop :=
  ∀ (c : Configuration) (k : Nat) (pc1 pc2 : Word),
    c.cap.toNat = 2 ^ k → c.index pc1 = c.index pc2 → c.tag pc1 = c.tag pc2 → c.ts = .global →
    (c.sm = .lsbShare → c.hw.toNat ≤ k + c.tw.toNat → c.shareBits pc1 = c.shareBits pc2) ∧
    (c.sm = .midShare → 14 + c.hw.toNat ≤ k + c.tw.toNat → c.shareBits pc1 = c.shareBits pc2)

/-! ## PREDICT (42_predict.md) -/

/-- PREDICT completes: the stored target on a hit whose counter is Weak-Taken or Strong-Taken, else the fall-through
modulo 2^32; NPRED grows by one and nothing else changes. -/
def Obligations.PredictAnswersDirectionAndTarget : Prop :=
  ∀ (s : State) (p : Predictor) (pc : Word),
    s.lc = .ready p → pc.toNat % 4 = 0 → p.npred.toNat < 2 ^ 32 - 1 →
    ∃ (taken : Bool) (target : Word),
      exec (.predict pc) s =
        .next { s with lc := .ready { p with npred := p.npred + 1 },
                       responses := s.responses ++ [.predict taken target] } ∧
      (∀ j, (p.lookup pc).counter = some j → p.counter j = .wt ∨ p.counter j = .st →
        taken = true ∧ target.toNat = (p.slot (p.lookup pc).idx).tgt.toNat * 4) ∧
      (∀ j, (p.lookup pc).counter = some j → p.counter j = .snt ∨ p.counter j = .wnt →
        taken = false ∧ target.toNat = (pc.toNat + 4) % 2 ^ 32) ∧
      ((p.lookup pc).counter = none → taken = false ∧ target.toNat = (pc.toNat + 4) % 2 ^ 32)

/-- The refusals of PREDICT, UPDATE and GETSTATS in LC = Ready (R90, R91), in the order of R92: Misaligned before
StatOverflow. The form of a refusal is the model's choice (log 2, log 3). -/
def Obligations.ReadyCommandsAreRefusedInOrder : Prop :=
  ∀ (s : State) (p : Predictor), s.lc = .ready p →
    (∀ pc, pc.toNat % 4 ≠ 0 →
      exec (.predict pc) s = .next { s with refusal := some (s.refusal.getD .misaligned) }) ∧
    (∀ pc, pc.toNat % 4 = 0 → p.npred.toNat = 2 ^ 32 - 1 →
      exec (.predict pc) s = .next { s with refusal := some (s.refusal.getD .statOverflow) }) ∧
    (∀ pc atgt taken ptgt, pc.toNat % 4 ≠ 0 ∨ atgt.toNat % 4 ≠ 0 ∨ ptgt.toNat % 4 ≠ 0 →
      exec (.update pc atgt taken ptgt) s = .next { s with refusal := some (s.refusal.getD .misaligned) }) ∧
    (∀ pc atgt taken ptgt, pc.toNat % 4 = 0 → atgt.toNat % 4 = 0 → ptgt.toNat % 4 = 0 →
      ((ptgt.toNat ≠ (pc.toNat + 4) % 2 ^ 32) ↔ taken = false) → p.nmisp.toNat = 2 ^ 32 - 1 →
      exec (.update pc atgt taken ptgt) s = .next { s with refusal := some (s.refusal.getD .statOverflow) }) ∧
    (2 ^ 32 - 1 < p.cfg.hardwareBits →
      exec .getstats s = .next { s with refusal := some (s.refusal.getD .statOverflow) })

/-- R73: two PREDICTs of one pc with no UPDATE between them return the same response, and each only adds 1 to NPRED.
First, whatever PREDICTs and GETSTATS stand between, refused or not, when both are answered (an INIT between makes a new
predictor, R59). Second, with any PREDICTs between, aligned or refused, both are answered while NPRED has room. That the
run goes on through a refused PREDICT, which leaves only its mark, is the model's choice (log 2, log 3); R86 has a claim
about a sequence assume no mark. -/
def Obligations.RepeatedPredictAnswersTheSame : Prop :=
  (∀ (s t u v : State) (pc : Word) (is : List Instr) (r r' : Response),
    (∀ i ∈ is, (∃ x, i = .predict x) ∨ i = .getstats) →
    exec (.predict pc) s = .next t → t.responses = s.responses ++ [r] →
    runCommands is t = .next u →
    exec (.predict pc) u = .next v → v.responses = u.responses ++ [r'] →
    r' = r ∧ ∃ (p : Predictor) (n : Stat),
      s.lc = .ready p ∧ t.lc = .ready { p with npred := p.npred + 1 } ∧
      u.lc = .ready { p with npred := n } ∧ v.lc = .ready { p with npred := n + 1 }) ∧
  (∀ (s : State) (p : Predictor) (pc : Word) (pcs : List Word),
    s.lc = .ready p → pc.toNat % 4 = 0 →
    p.npred.toNat + pcs.countP (fun x => x.toNat % 4 = 0) + 1 < 2 ^ 32 - 1 →
    ∃ (r : Response) (t u : State) (n : Stat),
      exec (.predict pc) s = .next t ∧
      t = { s with lc := .ready { p with npred := p.npred + 1 }, responses := s.responses ++ [r] } ∧
      runCommands (pcs.map .predict) t = .next u ∧
      u.lc = .ready { p with npred := n } ∧
      n.toNat = p.npred.toNat + 1 + pcs.countP (fun x => x.toNat % 4 = 0) ∧
      exec (.predict pc) u =
        .next { u with lc := .ready { p with npred := n + 1 }, responses := u.responses ++ [r] })

/-- The frame of PREDICT, whether it answers or is refused: no slot, no counter, no history, no misprediction count and
no configuration register changes, and no predictor comes or goes. -/
def Obligations.PredictWritesOnlyItsCount : Prop :=
  ∀ (s t : State) (pc : Word), exec (.predict pc) s = .next t →
    t.limits = s.limits ∧ t.pending = s.pending ∧
    (∀ p, s.lc = .ready p → ∃ q, t.lc = .ready q ∧ q.cfg = p.cfg ∧ (∀ i, q.slot i = p.slot i) ∧
      (∀ j, q.counter j = p.counter j) ∧ q.ghr = p.ghr ∧ q.nmisp = p.nmisp ∧
      (∀ pc', q.lookup pc' = p.lookup pc')) ∧
    ((∀ p, s.lc ≠ .ready p) → t.lc = s.lc)

/-- A prediction rests on one slot: two predictors of one configuration, one of them in order (R29), that agree on the
slot the pc indexes, on GHR under HS = Global, and on the counters of the table that slot uses (its own 2^HW under
TS = Local, the one table of 2^HW under TS = Global) look up and predict the same, whatever the other slots and the
other tables hold (R38, R71). -/
def Obligations.PredictionReadsOneSlot : Prop :=
  ∀ (l : Limits) (p q : Predictor) (pc : Word),
    p.Inv l → q.cfg = p.cfg → q.slot (p.cfg.index pc) = p.slot (p.cfg.index pc) →
    (p.cfg.hs = .global → q.ghr = p.ghr) →
    (∀ hv, hv < 2 ^ p.cfg.hw.toNat →
      q.counter (p.cfg.fsmAddr (p.cfg.index pc) hv) = p.counter (p.cfg.fsmAddr (p.cfg.index pc) hv)) →
    q.lookup pc = p.lookup pc ∧ q.prediction pc = p.prediction pc

/-! ## UPDATE (43_update.md) -/

/-- R24, R68, R78, R79: the codes are 0 to 3 in order; a taken outcome moves the code to min(c + 1, 3), a not-taken one
to c - 1 stopping at 0; a counter predicts taken when its code is at least 2, which is its bit 1. -/
def Obligations.CountersSaturate : Prop :=
  FsmState.snt.code = 0 ∧ FsmState.wnt.code = 1 ∧ FsmState.wt.code = 2 ∧ FsmState.st.code = 3 ∧
  ∀ c : FsmState,
    c.onTaken.code.toNat = min (c.code.toNat + 1) 3 ∧ c.onNotTaken.code.toNat = c.code.toNat - 1 ∧
    (c.taken = true ↔ c = .wt ∨ c = .st) ∧ (c.taken = true ↔ 2 ≤ c.code.toNat) ∧ c.taken = c.code.getLsbD 1 ∧
    FsmState.ofCode c.code = c

/-- R75: an UPDATE that is not refused counts a misprediction exactly when the direction read from the supplied
predicted target differs from the outcome; the actual target does not matter. -/
def Obligations.MispredictionIsADirectionMismatch : Prop :=
  ∀ (s t : State) (p : Predictor) (pc atgt ptgt : Word) (taken : Bool),
    s.lc = .ready p → exec (.update pc atgt taken ptgt) s = .next t → t.responses = s.responses ++ [.update] →
    ∃ q, t.lc = .ready q ∧
      q.nmisp.toNat = p.nmisp.toNat + (if (ptgt.toNat ≠ (pc.toNat + 4) % 2 ^ 32) ↔ taken = true then 0 else 1)

/-- UPDATE on a miss completes by allocating: the slot the pc indexes is claimed whole, a private table is reset, no
counter is trained, the history is shifted, and nothing else changes. -/
def Obligations.UpdateAllocatesOnAMiss : Prop :=
  ∀ (s : State) (p : Predictor) (pc atgt ptgt : Word) (taken : Bool),
    s.lc = .ready p → pc.toNat % 4 = 0 → atgt.toNat % 4 = 0 → ptgt.toNat % 4 = 0 →
    (((ptgt.toNat ≠ (pc.toNat + 4) % 2 ^ 32) ↔ taken = false) → p.nmisp.toNat < 2 ^ 32 - 1) →
    (p.lookup pc).counter = none →
    ∃ q : Predictor,
      exec (.update pc atgt taken ptgt) s =
        .next { s with lc := .ready q, responses := s.responses ++ [.update] } ∧
      q.cfg = p.cfg ∧ q.npred = p.npred ∧
      q.nmisp.toNat = p.nmisp.toNat + (if (ptgt.toNat ≠ (pc.toNat + 4) % 2 ^ 32) ↔ taken = true then 0 else 1) ∧
      (∀ i, i ≠ (p.lookup pc).idx → q.slot i = p.slot i) ∧
      (q.slot (p.lookup pc).idx).v = true ∧
      (q.slot (p.lookup pc).idx).tag = (p.lookup pc).tag ∧
      (q.slot (p.lookup pc).idx).tgt.toNat * 4 = atgt.toNat ∧
      (q.slot (p.lookup pc).idx).lh =
        (if p.cfg.hs = .perSlot then taken.toNat % 2 ^ p.cfg.hw.toNat else (p.slot (p.lookup pc).idx).lh) ∧
      q.ghr = (if p.cfg.hs = .global then (2 * p.ghr + taken.toNat) % 2 ^ p.cfg.hw.toNat else p.ghr) ∧
      (∀ j, q.counter j =
        if p.cfg.ts = .perSlot ∧ j / 2 ^ p.cfg.hw.toNat = (p.lookup pc).idx then p.cfg.ifs else p.counter j)

/-- UPDATE on a hit completes in place: the counter PREDICT would read moves one step, the target is refreshed even when
not taken, the history is shifted, and nothing else changes. -/
def Obligations.UpdateTrainsOnAHit : Prop :=
  ∀ (s : State) (p : Predictor) (pc atgt ptgt : Word) (taken : Bool) (j : Nat),
    s.lc = .ready p → pc.toNat % 4 = 0 → atgt.toNat % 4 = 0 → ptgt.toNat % 4 = 0 →
    (((ptgt.toNat ≠ (pc.toNat + 4) % 2 ^ 32) ↔ taken = false) → p.nmisp.toNat < 2 ^ 32 - 1) →
    (p.lookup pc).counter = some j →
    ∃ q : Predictor,
      exec (.update pc atgt taken ptgt) s =
        .next { s with lc := .ready q, responses := s.responses ++ [.update] } ∧
      q.cfg = p.cfg ∧ q.npred = p.npred ∧
      q.nmisp.toNat = p.nmisp.toNat + (if (ptgt.toNat ≠ (pc.toNat + 4) % 2 ^ 32) ↔ taken = true then 0 else 1) ∧
      (∀ i, i ≠ (p.lookup pc).idx → q.slot i = p.slot i) ∧
      (q.slot (p.lookup pc).idx).v = (p.slot (p.lookup pc).idx).v ∧
      (q.slot (p.lookup pc).idx).tag = (p.slot (p.lookup pc).idx).tag ∧
      (q.slot (p.lookup pc).idx).tgt.toNat * 4 = atgt.toNat ∧
      (q.slot (p.lookup pc).idx).lh =
        (if p.cfg.hs = .perSlot then (2 * (p.slot (p.lookup pc).idx).lh + taken.toNat) % 2 ^ p.cfg.hw.toNat
         else (p.slot (p.lookup pc).idx).lh) ∧
      q.ghr = (if p.cfg.hs = .global then (2 * p.ghr + taken.toNat) % 2 ^ p.cfg.hw.toNat else p.ghr) ∧
      (q.counter j).code.toNat =
        (if taken = true then min ((p.counter j).code.toNat + 1) 3 else (p.counter j).code.toNat - 1) ∧
      (∀ k, k ≠ j → q.counter k = p.counter k)

/-- The frame of UPDATE, whether it completes or is refused: no slot but the one the pc indexes, no prediction count and
no configuration register changes, GHR stays under HS = Local, and no predictor comes or goes (R38, R74). -/
def Obligations.UpdateWritesOnlyItsSlot : Prop :=
  ∀ (s t : State) (pc atgt ptgt : Word) (taken : Bool), exec (.update pc atgt taken ptgt) s = .next t →
    t.limits = s.limits ∧ t.pending = s.pending ∧
    (∀ p, s.lc = .ready p → ∃ q, t.lc = .ready q ∧ q.cfg = p.cfg ∧ q.npred = p.npred ∧
      (∀ i, i ≠ pc.toNat / 4 % p.cfg.cap.toNat → q.slot i = p.slot i) ∧
      (p.cfg.hs = .perSlot → q.ghr = p.ghr)) ∧
    ((∀ p, s.lc ≠ .ready p) → t.lc = s.lc)

/-- R81: from any counter value, three UPDATEs with T = 1 that hit at the same counter address leave it at Strong-Taken;
three with T = 0 leave it at Strong-Not-Taken. -/
def Obligations.ThreeUpdatesSaturateACounter : Prop :=
  ∀ (taken : Bool) (j : Nat) (s0 s1 s2 s3 : State) (p0 p1 p2 p3 : Predictor)
    (pc0 pc1 pc2 a0 a1 a2 g0 g1 g2 : Word),
    exec (.update pc0 a0 taken g0) s0 = .next s1 → exec (.update pc1 a1 taken g1) s1 = .next s2 →
    exec (.update pc2 a2 taken g2) s2 = .next s3 →
    s3.responses = s0.responses ++ [.update, .update, .update] →
    s0.lc = .ready p0 → s1.lc = .ready p1 → s2.lc = .ready p2 → s3.lc = .ready p3 →
    (p0.lookup pc0).counter = some j → (p1.lookup pc1).counter = some j → (p2.lookup pc2).counter = some j →
    p3.counter j = if taken then .st else .snt

/-- R80: after a sequence of UPDATEs under HS = Global, none refused, bit k of GHR is the outcome of k UPDATEs ago while
k < HW, and above the sequence's length the bits GHR had before, shifted up; no bit at HW or above is set. -/
def Obligations.HistoryHoldsTheLatestOutcomes : Prop :=
  ∀ (us : List (Word × Word × Bool × Word)) (s t : State) (p : Predictor),
    s.lc = .ready p → p.cfg.hs = .global → p.ghr < 2 ^ p.cfg.hw.toNat →
    runCommands (updates us) s = .next t → t.refusal = none →
    ∃ q, t.lc = .ready q ∧ q.cfg = p.cfg ∧
      ∀ k, q.ghr.testBit k =
        (decide (k < p.cfg.hw.toNat) &&
          match us.reverse[k]? with
          | some u => u.2.2.1
          | none => p.ghr.testBit (k - us.length))

/-- R81: under TS = Local a branch that has just been allocated hits and sees a counter at the initial state. -/
def Obligations.AllocatedBranchStartsFromTheInitialState : Prop :=
  ∀ (s t : State) (p q : Predictor) (pc atgt ptgt : Word) (taken : Bool),
    s.lc = .ready p → p.cfg.ts = .perSlot → (p.lookup pc).counter = none →
    exec (.update pc atgt taken ptgt) s = .next t → t.responses = s.responses ++ [.update] → t.lc = .ready q →
    (q.lookup pc).idx = (p.lookup pc).idx ∧
    ∃ j, (q.lookup pc).counter = some j ∧ q.counter j = p.cfg.ifs

/-- R75, R104 to R106: an UPDATE that follows the PREDICT it answers, handing back the target PREDICT gave, counts a
misprediction exactly when PREDICT's direction was wrong, unless PREDICT said taken with the fall-through as target; and
it looks up the slot and the counter that PREDICT looked up. -/
def Obligations.PairedUpdateCountsWrongDirections : Prop :=
  ∀ (s t u : State) (p q r : Predictor) (pc atgt target : Word) (predicted taken : Bool),
    s.lc = .ready p → exec (.predict pc) s = .next t → t.responses = s.responses ++ [.predict predicted target] →
    exec (.update pc atgt taken target) t = .next u → u.responses = t.responses ++ [.update] →
    t.lc = .ready q → u.lc = .ready r →
    q.lookup pc = p.lookup pc ∧
    (¬ (predicted = true ∧ target.toNat = (pc.toNat + 4) % 2 ^ 32) →
      r.nmisp.toNat = p.nmisp.toNat + (if predicted = taken then 0 else 1)) ∧
    (predicted = true ∧ target.toNat = (pc.toNat + 4) % 2 ^ 32 →
      r.nmisp.toNat = p.nmisp.toNat + (if taken = true then 1 else 0))

/-- Under HS = Local and TS = Local slots are isolated: an UPDATE of a branch of one slot changes no prediction of a
branch of another (R34, R38). -/
def Obligations.LocalSlotsAreIsolated : Prop :=
  ∀ (s t : State) (p q : Predictor) (pc pc' atgt ptgt : Word) (taken : Bool),
    s.Inv → s.lc = .ready p → p.cfg.hs = .perSlot → p.cfg.ts = .perSlot →
    pc.toNat / 4 % p.cfg.cap.toNat ≠ pc'.toNat / 4 % p.cfg.cap.toNat →
    exec (.update pc atgt taken ptgt) s = .next t → t.lc = .ready q →
    q.prediction pc' = p.prediction pc' ∧ q.lookup pc' = p.lookup pc'

/-! ## Counts, invariants and runs -/

/-- R27: while a predictor lasts its counts only grow, NPRED by PREDICT alone and NMISP by UPDATE alone, each by at most
one a command. -/
def Obligations.CountsOnlyGrow : Prop :=
  ∀ (i : Instr) (s t : State) (p q : Predictor),
    (∀ cap hw tw ifs hs ts sm, i ≠ .init cap hw tw ifs hs ts sm) →
    s.lc = .ready p → exec i s = .next t → t.lc = .ready q →
    (q.npred.toNat = p.npred.toNat ∨ (q.npred.toNat = p.npred.toNat + 1 ∧ ∃ pc, i = .predict pc)) ∧
    (q.nmisp.toNat = p.nmisp.toNat ∨ (q.nmisp.toNat = p.nmisp.toNat + 1 ∧ ∃ pc a k g, i = .update pc a k g))

/-- The canonical form makes equal storages equal data: two storages in it that read alike everywhere are one list. -/
def Obligations.StorageIsDeterminedByItsReads : Prop :=
  ∀ (d : FsmState) (e : Slot) (n : Nat),
    (∀ a b : Cells FsmState, Cells.Wf d n a → Cells.Wf d n b → (∀ i, Cells.read d a i = Cells.read d b i) → a = b) ∧
    (∀ a b : Cells Slot, Cells.Wf e n a → Cells.Wf e n b → (∀ i, Cells.read e a i = Cells.read e b i) → a = b)

/-- The machine at power-on meets the invariant, counts its predictions, and has no refusal mark (log 3). -/
def Obligations.ResetMeetsTheInvariants : Prop :=
  State.reset.Inv ∧ State.reset.CountsPredictions ∧ State.reset.clean

/-- R29: every step keeps the invariant: legal configuration, storages in canonical form and in range, every history and
tag within its width, every invalid slot as INIT left it. -/
def Obligations.StepKeepsTheInvariant : Prop :=
  ∀ s t : State, s.Inv → step s = .next t → t.Inv

/-- R97: every step keeps NPRED equal to the number of PREDICTs answered since the INIT. -/
def Obligations.StepKeepsTheCountOfPredictions : Prop :=
  ∀ s t : State, s.CountsPredictions → step s = .next t → t.CountsPredictions

/-- R110: GETSTATS ends a run without a refusal mark; its observation is the run's responses, and the first count
reported is the number of predictions in it. -/
def Obligations.ObservedRunReportsItsPredictions : Prop :=
  ∀ (s : State) (p : Predictor),
    s.CountsPredictions → s.lc = .ready p → s.clean → p.cfg.hardwareBits ≤ 2 ^ 32 - 1 →
    ∃ (t : State) (n m b : Stat),
      exec .getstats s = .next t ∧
      t.observation = some (currentRun s.responses ++ [.getstats n m b]) ∧
      n.toNat = predictCount (currentRun s.responses ++ [.getstats n m b]) ∧ m = p.nmisp ∧
      b.toNat = p.cfg.hardwareBits
end

