-- ==== Sys2Proof/Laws/State.lean ====
section
/-! SUPPORT. One lemma per field and update of the state and of the predictor, true by `rfl`. -/

namespace Sys2Proof.Machine

/-! ## State -/

@[simp] theorem State.refuse_limits (s : State) (r : RefusalReason) : (s.refuse r).limits = s.limits := rfl
@[simp] theorem State.refuse_lc (s : State) (r : RefusalReason) : (s.refuse r).lc = s.lc := rfl
@[simp] theorem State.refuse_refusal (s : State) (r : RefusalReason) :
    (s.refuse r).refusal = some (s.refusal.getD r) := rfl
@[simp] theorem State.refuse_pending (s : State) (r : RefusalReason) : (s.refuse r).pending = s.pending := rfl
@[simp] theorem State.refuse_responses (s : State) (r : RefusalReason) : (s.refuse r).responses = s.responses := rfl

@[simp] theorem State.respond_limits (s : State) (r : Response) : (s.respond r).limits = s.limits := rfl
@[simp] theorem State.respond_lc (s : State) (r : Response) : (s.respond r).lc = s.lc := rfl
@[simp] theorem State.respond_refusal (s : State) (r : Response) : (s.respond r).refusal = s.refusal := rfl
@[simp] theorem State.respond_pending (s : State) (r : Response) : (s.respond r).pending = s.pending := rfl
@[simp] theorem State.respond_responses (s : State) (r : Response) :
    (s.respond r).responses = s.responses ++ [r] := rfl

@[simp] theorem State.setLc_limits (s : State) (l : Lifecycle) : (s.setLc l).limits = s.limits := rfl
@[simp] theorem State.setLc_lc (s : State) (l : Lifecycle) : (s.setLc l).lc = l := rfl
@[simp] theorem State.setLc_refusal (s : State) (l : Lifecycle) : (s.setLc l).refusal = s.refusal := rfl
@[simp] theorem State.setLc_pending (s : State) (l : Lifecycle) : (s.setLc l).pending = s.pending := rfl
@[simp] theorem State.setLc_responses (s : State) (l : Lifecycle) : (s.setLc l).responses = s.responses := rfl

/-! ## Predictor: the writes of one slot or counter -/

@[simp] theorem Predictor.setSlot_cfg (p : Predictor) (i : Nat) (sl : Slot) : (p.setSlot i sl).cfg = p.cfg := rfl
@[simp] theorem Predictor.setSlot_fsm (p : Predictor) (i : Nat) (sl : Slot) : (p.setSlot i sl).fsm = p.fsm := rfl
@[simp] theorem Predictor.setSlot_ghr (p : Predictor) (i : Nat) (sl : Slot) : (p.setSlot i sl).ghr = p.ghr := rfl
@[simp] theorem Predictor.setSlot_npred (p : Predictor) (i : Nat) (sl : Slot) : (p.setSlot i sl).npred = p.npred := rfl
@[simp] theorem Predictor.setSlot_nmisp (p : Predictor) (i : Nat) (sl : Slot) : (p.setSlot i sl).nmisp = p.nmisp := rfl
@[simp] theorem Predictor.setSlot_counter (p : Predictor) (i : Nat) (sl : Slot) (j : Nat) :
    (p.setSlot i sl).counter j = p.counter j := rfl

@[simp] theorem Predictor.setCounter_cfg (p : Predictor) (j : Nat) (c : FsmState) : (p.setCounter j c).cfg = p.cfg := rfl
@[simp] theorem Predictor.setCounter_btb (p : Predictor) (j : Nat) (c : FsmState) : (p.setCounter j c).btb = p.btb := rfl
@[simp] theorem Predictor.setCounter_ghr (p : Predictor) (j : Nat) (c : FsmState) : (p.setCounter j c).ghr = p.ghr := rfl
@[simp] theorem Predictor.setCounter_npred (p : Predictor) (j : Nat) (c : FsmState) :
    (p.setCounter j c).npred = p.npred := rfl
@[simp] theorem Predictor.setCounter_nmisp (p : Predictor) (j : Nat) (c : FsmState) :
    (p.setCounter j c).nmisp = p.nmisp := rfl
@[simp] theorem Predictor.setCounter_slot (p : Predictor) (j : Nat) (c : FsmState) (i : Nat) :
    (p.setCounter j c).slot i = p.slot i := rfl

@[simp] theorem Predictor.resetTable_cfg (p : Predictor) (i : Nat) : (p.resetTable i).cfg = p.cfg := rfl
@[simp] theorem Predictor.resetTable_btb (p : Predictor) (i : Nat) : (p.resetTable i).btb = p.btb := rfl
@[simp] theorem Predictor.resetTable_ghr (p : Predictor) (i : Nat) : (p.resetTable i).ghr = p.ghr := rfl
@[simp] theorem Predictor.resetTable_npred (p : Predictor) (i : Nat) : (p.resetTable i).npred = p.npred := rfl
@[simp] theorem Predictor.resetTable_nmisp (p : Predictor) (i : Nat) : (p.resetTable i).nmisp = p.nmisp := rfl
@[simp] theorem Predictor.resetTable_slot (p : Predictor) (i k : Nat) : (p.resetTable i).slot k = p.slot k := rfl

/-! ## Predictor: a fresh one -/

@[simp] theorem Predictor.fresh_cfg (c : Configuration) : (Predictor.fresh c).cfg = c := rfl
@[simp] theorem Predictor.fresh_btb (c : Configuration) : (Predictor.fresh c).btb = [] := rfl
@[simp] theorem Predictor.fresh_fsm (c : Configuration) : (Predictor.fresh c).fsm = [] := rfl
@[simp] theorem Predictor.fresh_ghr (c : Configuration) : (Predictor.fresh c).ghr = 0 := rfl
@[simp] theorem Predictor.fresh_npred (c : Configuration) : (Predictor.fresh c).npred = 0 := rfl
@[simp] theorem Predictor.fresh_nmisp (c : Configuration) : (Predictor.fresh c).nmisp = 0 := rfl
@[simp] theorem Predictor.fresh_slot (c : Configuration) (i : Nat) : (Predictor.fresh c).slot i = Slot.cleared := rfl
@[simp] theorem Predictor.fresh_counter (c : Configuration) (j : Nat) : (Predictor.fresh c).counter j = c.ifs := rfl

end Sys2Proof.Machine
end

