-- ==== Sys2Proof/Laws/Cells.lean ====
section
/-! SUPPORT. Reading after writing and clearing a storage, and that every storage operation keeps the canonical form. -/

namespace Sys2Proof.Machine

variable {α : Type} (d : α)

@[simp] theorem Cells.read_nil (i : Nat) : Cells.read d [] i = d := rfl

theorem Cells.read_cons (k : Nat) (x : α) (cs : Cells α) (i : Nat) :
    Cells.read d ((k, x) :: cs) i = if k = i then x else Cells.read d cs i := rfl

/-! ## Reading -/

/-- Entries that are not for `i` do not matter to a read of `i`. -/
theorem Cells.read_filter_keep (f : Nat × α → Bool) (cs : Cells α) (i : Nat) (h : ∀ x, f (i, x) = true) :
    Cells.read d (cs.filter f) i = Cells.read d cs i := by
  induction cs with
  | nil => rfl
  | cons e cs ih =>
    obtain ⟨k, x⟩ := e
    by_cases hf : f (k, x) = true
    · simp [hf, Cells.read_cons, ih]
    · have hk : k ≠ i := fun hk => hf (hk ▸ h x)
      simp [hf, Cells.read_cons, ih, hk]

/-- With every entry for `i` dropped, `i` reads as unlisted. -/
theorem Cells.read_filter_drop (f : Nat × α → Bool) (cs : Cells α) (i : Nat) (h : ∀ x, f (i, x) = false) :
    Cells.read d (cs.filter f) i = d := by
  induction cs with
  | nil => rfl
  | cons e cs ih =>
    obtain ⟨k, x⟩ := e
    by_cases hf : f (k, x) = true
    · have hk : k ≠ i := fun hk => by simp [hk, h x] at hf
      simp [hf, Cells.read_cons, ih, hk]
    · simp [hf, ih]

theorem Cells.read_insert_other (i j : Nat) (x : α) (cs : Cells α) (h : i ≠ j) :
    Cells.read d (Cells.insert i x cs) j = Cells.read d cs j := by
  induction cs with
  | nil => simp [Cells.insert, Cells.read_cons, h]
  | cons e cs ih =>
    obtain ⟨k, y⟩ := e
    unfold Cells.insert
    split <;> simp [Cells.read_cons, ih, h]

theorem Cells.read_insert_same (i : Nat) (x : α) (cs : Cells α) (h : ∀ e ∈ cs, e.1 ≠ i) :
    Cells.read d (Cells.insert i x cs) i = x := by
  induction cs with
  | nil => simp [Cells.insert, Cells.read_cons]
  | cons e cs ih =>
    obtain ⟨k, y⟩ := e
    have hk : k ≠ i := h (k, y) (by simp)
    have ih := ih fun e he => h e (by simp [he])
    unfold Cells.insert
    split <;> simp [Cells.read_cons, ih, hk]

theorem Cells.read_write_same [DecidableEq α] (cs : Cells α) (i : Nat) (x : α) :
    Cells.read d (Cells.write d cs i x) i = x := by
  unfold Cells.write
  split
  · next h => rw [Cells.read_filter_drop d _ cs i (by simp), h]
  · exact Cells.read_insert_same d i x _ (by simp)

theorem Cells.read_write_other [DecidableEq α] (cs : Cells α) (i j : Nat) (x : α) (h : i ≠ j) :
    Cells.read d (Cells.write d cs i x) j = Cells.read d cs j := by
  have hf : Cells.read d (cs.filter fun e => e.1 != i) j = Cells.read d cs j :=
    Cells.read_filter_keep d _ cs j (by simp [Ne.symm h])
  unfold Cells.write
  split
  · exact hf
  · rw [Cells.read_insert_other d i j x _ h, hf]

/-- What a write does to a read of any number. -/
theorem Cells.read_write [DecidableEq α] (cs : Cells α) (i j : Nat) (x : α) :
    Cells.read d (Cells.write d cs i x) j = if i = j then x else Cells.read d cs j := by
  split
  · next h => exact h ▸ Cells.read_write_same d cs i x
  · next h => exact Cells.read_write_other d cs i j x h

/-- What clearing a range does to a read of any number. -/
theorem Cells.read_clear (cs : Cells α) (lo n j : Nat) :
    Cells.read d (Cells.clear cs lo n) j = if lo ≤ j ∧ j < lo + n then d else Cells.read d cs j := by
  unfold Cells.clear
  split
  · next h => exact Cells.read_filter_drop d _ cs j (by simp [h])
  · next h => exact Cells.read_filter_keep d _ cs j fun x => by simpa [← Bool.decide_and] using h

/-! ## The canonical form -/

theorem Cells.wf_nil (bound : Nat) : Cells.Wf d bound [] := by simp [Cells.Wf]

theorem Cells.Wf.filter {bound : Nat} {cs : Cells α} (h : Cells.Wf d bound cs) (f : Nat × α → Bool) :
    Cells.Wf d bound (cs.filter f) :=
  ⟨h.1.filter f, fun e he => h.2 e (List.mem_of_mem_filter he)⟩

theorem Cells.mem_insert {i : Nat} {x : α} {cs : Cells α} {e : Nat × α} :
    e ∈ Cells.insert i x cs ↔ e = (i, x) ∨ e ∈ cs := by
  induction cs with
  | nil => simp [Cells.insert]
  | cons c cs ih =>
    obtain ⟨k, y⟩ := c
    unfold Cells.insert
    split
    · simp only [List.mem_cons, ih]; tauto
    · simp only [List.mem_cons]

theorem Cells.Wf.insert {bound : Nat} {cs : Cells α} (h : Cells.Wf d bound cs) {i : Nat} {x : α}
    (hi : i < bound) (hx : x ≠ d) (hn : ∀ e ∈ cs, e.1 ≠ i) : Cells.Wf d bound (Cells.insert i x cs) := by
  induction cs with
  | nil => simp [Cells.insert, Cells.Wf, hi, hx]
  | cons c cs ih =>
    obtain ⟨k, y⟩ := c
    obtain ⟨hp, ha⟩ := h
    rw [List.pairwise_cons] at hp
    have hk : k ≠ i := hn (k, y) (by simp)
    unfold Cells.insert
    split
    · next hlt =>
      have ih := ih ⟨hp.2, fun e he => ha e (by simp [he])⟩ fun e he => hn e (by simp [he])
      refine ⟨List.pairwise_cons.2 ⟨fun e he => ?_, ih.1⟩, fun e he => ?_⟩
      · rcases Cells.mem_insert.1 he with rfl | he
        · exact hlt
        · exact hp.1 e he
      · rcases List.mem_cons.1 he with rfl | he
        · exact ha _ (by simp)
        · exact ih.2 e he
    · next hge =>
      have hik : i < k := by omega
      refine ⟨List.pairwise_cons.2 ⟨fun e he => ?_, List.pairwise_cons.2 hp⟩, fun e he => ?_⟩
      · rcases List.mem_cons.1 he with rfl | he
        · exact hik
        · exact Nat.lt_trans hik (hp.1 e he)
      · rcases List.mem_cons.1 he with rfl | he
        · exact ⟨hi, hx⟩
        · exact ha e he

theorem Cells.Wf.write [DecidableEq α] {bound : Nat} {cs : Cells α} (h : Cells.Wf d bound cs) {i : Nat} (x : α)
    (hi : i < bound) : Cells.Wf d bound (Cells.write d cs i x) := by
  unfold Cells.write
  split
  · exact Cells.Wf.filter d h _
  · next hx => exact Cells.Wf.insert d (Cells.Wf.filter d h _) hi hx (by simp)

theorem Cells.Wf.clear {bound : Nat} {cs : Cells α} (h : Cells.Wf d bound cs) (lo n : Nat) :
    Cells.Wf d bound (Cells.clear cs lo n) :=
  Cells.Wf.filter d h _

/-! ## Slots and counters -/

theorem Predictor.slot_setSlot (p : Predictor) (i k : Nat) (sl : Slot) :
    (p.setSlot i sl).slot k = if i = k then sl else p.slot k :=
  Cells.read_write Slot.cleared p.btb i k sl

@[simp] theorem Predictor.slot_setSlot_same (p : Predictor) (i : Nat) (sl : Slot) : (p.setSlot i sl).slot i = sl := by
  simp [Predictor.slot_setSlot]

theorem Predictor.counter_setCounter (p : Predictor) (j k : Nat) (c : FsmState) :
    (p.setCounter j c).counter k = if j = k then c else p.counter k :=
  Cells.read_write p.cfg.ifs p.fsm j k c

theorem Predictor.counter_resetTable (p : Predictor) (i k : Nat) :
    (p.resetTable i).counter k =
      if i * p.cfg.tableSize ≤ k ∧ k < i * p.cfg.tableSize + p.cfg.tableSize then p.cfg.ifs else p.counter k :=
  Cells.read_clear p.cfg.ifs p.fsm _ _ k

end Sys2Proof.Machine
end

