-- ==== Sys2Proof/Laws/PerInstr.lean ====
section
/-! SUPPORT. Facts about every command as syntax, one lemma per constructor. -/

namespace Sys2Proof.Laws.OperandWords

/-- A command's words are its command word and the operand words its OP asks for (R47, R54). -/
def Statement (i : Instr) : Prop :=
  ∃ w0 args, encode i = w0 :: args ∧ args.length = operandCount w0

theorem init (cap hw tw : Word) (ifs : FsmState) (hs ts : Scope) (sm : SharingField) :
    Statement (.init cap hw tw ifs hs ts sm) := by
  refine ⟨initWord ifs hs ts sm, [cap, hw, tw], rfl, ?_⟩
  have : opField (initWord ifs hs ts sm) = opInit := by
    cases ifs <;> cases hs <;> cases ts <;> rcases sm with (_ | _ | _) | _ <;> rfl
  simp [operandCount, this]

theorem predict (pc : Word) : Statement (.predict pc) := ⟨predictWord, [pc], rfl, rfl⟩

theorem update (pc atgt : Word) (taken : Bool) (ptgt : Word) : Statement (.update pc atgt taken ptgt) :=
  ⟨updateWord taken, [pc, atgt, ptgt], rfl, by cases taken <;> rfl⟩

theorem getstats : Statement .getstats := ⟨getstatsWord, [], rfl, rfl⟩

end Sys2Proof.Laws.OperandWords
end

