-- ==== Sys2Proof/Laws/Decode.lean ====
section
/-! SUPPORT. The fields of a command word as arithmetic, and the codes of the enumerated fields. -/

namespace Sys2Proof

theorem word_width : Word = BitVec Config.addrWidth := rfl

theorem opField_toNat (w : Word) : (opField w).toNat = w.toNat % 8 := by
  simp [opField, BitVec.extractLsb'_toNat]

theorem opField_eq_init (w : Word) : opField w = opInit ↔ w.toNat % 8 = 1 := by
  rw [← BitVec.toNat_inj, opField_toNat]; rfl

theorem opField_eq_predict (w : Word) : opField w = opPredict ↔ w.toNat % 8 = 2 := by
  rw [← BitVec.toNat_inj, opField_toNat]; rfl

theorem opField_eq_update (w : Word) : opField w = opUpdate ↔ w.toNat % 8 = 3 := by
  rw [← BitVec.toNat_inj, opField_toNat]; rfl

theorem opField_eq_getstats (w : Word) : opField w = opGetstats ↔ w.toNat % 8 = 4 := by
  rw [← BitVec.toNat_inj, opField_toNat]; rfl

/-- The bits of a word from `k` up are zero exactly when it is below `2 ^ k`. -/
theorem highBits_eq_zero (w : Word) (k m : Nat) (h : 32 ≤ k + m) : w.extractLsb' k m = 0 ↔ w.toNat / 2 ^ k = 0 := by
  have hlt : w.toNat / 2 ^ k < 2 ^ m := by
    rw [Nat.div_lt_iff_lt_mul (Nat.two_pow_pos k), ← pow_add]
    exact lt_of_lt_of_le w.isLt (Nat.pow_le_pow_right (by omega) (by omega))
  rw [← BitVec.toNat_inj]
  simp only [BitVec.extractLsb'_toNat, Nat.shiftRight_eq_div_pow]
  rw [Nat.mod_eq_of_lt hlt]
  rfl

@[simp] theorem FsmState.code_ofCode (c : BitVec 2) : (FsmState.ofCode c).code = c := by revert c; decide
@[simp] theorem FsmState.ofCode_code (c : FsmState) : FsmState.ofCode c.code = c := by cases c <;> rfl
@[simp] theorem Scope.code_ofCode (c : BitVec 1) : (Scope.ofCode c).code = c := by revert c; decide
@[simp] theorem Scope.ofCode_code (c : Scope) : Scope.ofCode c.code = c := by cases c <;> rfl
@[simp] theorem SharingField.code_ofCode (c : BitVec 2) : (SharingField.ofCode c).code = c := by revert c; decide
@[simp] theorem SharingField.ofCode_code (f : SharingField) : SharingField.ofCode f.code = f := by
  rcases f with (_ | _ | _) | _ <;> rfl

end Sys2Proof
end

