-- ==== Sys2Proof/Laws/Operands.lean ====
section
/-! SUPPORT. The operand functions as arithmetic: division, remainder and powers of two. -/

namespace Sys2Proof.Machine

theorem and_mask (x n : Nat) : x &&& mask n = x % 2 ^ n := Nat.and_two_pow_sub_one_eq_mod x n

theorem and_mask_lt (x n : Nat) : x &&& mask n < 2 ^ n := by
  rw [and_mask]; exact Nat.mod_lt _ (Nat.two_pow_pos n)

theorem alignedAddress_eq (pc : Word) : alignedAddress pc = pc.toNat / 4 := Nat.shiftRight_eq_div_pow _ 2

theorem alignedAddress_lt (pc : Word) : alignedAddress pc < 2 ^ 30 := by
  rw [alignedAddress_eq]; have := pc.isLt; omega

theorem misaligned_eq (x : Word) : misaligned x = decide (x.toNat % 4 ≠ 0) := by
  have h0 : x.getLsbD 0 = decide (x.toNat % 2 = 1) := by
    rw [← BitVec.testBit_toNat, Nat.testBit_zero]
  have h1 : x.getLsbD 1 = decide (x.toNat / 2 % 2 = 1) := by
    rw [← BitVec.testBit_toNat, Nat.testBit_succ, Nat.testBit_zero]
  unfold misaligned
  rw [h0, h1, ← Bool.decide_or, decide_eq_decide]
  omega

theorem fallthrough_toNat (pc : Word) : (fallthrough pc).toNat = (pc.toNat + 4) % 2 ^ 32 := by
  simp [fallthrough, BitVec.toNat_add]

theorem targetField_toNat (x : Word) : (targetField x).toNat = x.toNat / 4 := by
  have := x.isLt
  simp only [targetField, Config.alignShift, BitVec.toNat_setWidth, BitVec.toNat_ushiftRight,
    Nat.shiftRight_eq_div_pow]
  omega

theorem storedTarget_toNat (sl : Slot) : sl.storedTarget.toNat = sl.tgt.toNat * 4 := by
  have := sl.tgt.isLt
  simp only [Slot.storedTarget, Config.alignShift, BitVec.toNat_shiftLeft, BitVec.toNat_setWidth, Nat.shiftLeft_eq]
  omega

theorem shifted_eq (c : Configuration) (h : Nat) (t : Bool) :
    c.shifted h t = (2 * h + t.toNat) % 2 ^ c.hw.toNat := by
  have ht : t.toNat < 2 ^ 1 := by cases t <;> decide
  unfold Configuration.shifted
  rw [and_mask, Nat.shiftLeft_eq, Nat.mul_comm, ← Nat.two_pow_add_eq_or_of_lt ht]

theorem shifted_lt (c : Configuration) (h : Nat) (t : Bool) : c.shifted h t < 2 ^ c.hw.toNat := and_mask_lt _ _

theorem index_lt (c : Configuration) (pc : Word) (h : 1 ≤ c.cap.toNat) : c.index pc < c.cap.toNat :=
  Nat.mod_lt _ h

theorem tag_lt (c : Configuration) (pc : Word) : c.tag pc < 2 ^ c.tw.toNat := and_mask_lt _ _

theorem shareBits_lt (c : Configuration) (pc : Word) : c.shareBits pc < 2 ^ c.hw.toNat := by
  unfold Configuration.shareBits
  split
  · exact Nat.two_pow_pos _
  · exact Nat.two_pow_pos _
  · exact and_mask_lt _ _
  · exact and_mask_lt _ _

/-- The history value fits when the history it starts from does. -/
theorem historyValue_lt (p : Predictor) (pc : Word) (h : p.history (p.cfg.index pc) < 2 ^ p.cfg.hw.toNat) :
    p.historyValue pc < 2 ^ p.cfg.hw.toNat :=
  Nat.xor_lt_two_pow h (shareBits_lt p.cfg pc)

/-- A private table's counters lie apart from every other slot's. -/
theorem fsmAddr_perSlot_ne (c : Configuration) (ht : c.ts = .perSlot) {i j hv hw : Nat} (hij : i ≠ j)
    (h1 : hv < c.tableSize) (h2 : hw < c.tableSize) : c.fsmAddr i hv ≠ c.fsmAddr j hw := by
  simp only [Configuration.fsmAddr, ht]
  intro h
  apply hij
  have hpos : 0 < c.tableSize := by omega
  have e1 : (i * c.tableSize + hv) / c.tableSize = i := by
    rw [Nat.mul_comm, Nat.mul_add_div hpos, Nat.div_eq_of_lt h1, Nat.add_zero]
  have e2 : (j * c.tableSize + hw) / c.tableSize = j := by
    rw [Nat.mul_comm, Nat.mul_add_div hpos, Nat.div_eq_of_lt h2, Nat.add_zero]
  rw [← e1, ← e2, h]

end Sys2Proof.Machine
end

