-- ==== Sys2Proof/Laws/Ops.lean ====
section
/-! SUPPORT. What each shared operation of UPDATE does, field by field, and the one lemma about `ifReady`. -/

namespace Sys2Proof.Machine

/-! ## Lookup -/

theorem Predictor.lookup_idx (p : Predictor) (pc : Word) : (p.lookup pc).idx = p.cfg.index pc := rfl
theorem Predictor.lookup_tag (p : Predictor) (pc : Word) : (p.lookup pc).tag = p.cfg.tag pc := rfl

theorem Predictor.lookup_hit {p : Predictor} {pc : Word} {j : Nat} (h : (p.lookup pc).counter = some j) :
    p.hit pc = true ∧ j = p.cfg.fsmAddr (p.cfg.index pc) (p.historyValue pc) := by
  simp only [Predictor.lookup] at h
  split at h
  · next hh => exact ⟨hh, (Option.some.inj h).symm⟩
  · cases h

theorem Predictor.lookup_miss {p : Predictor} {pc : Word} (h : (p.lookup pc).counter = none) : p.hit pc = false := by
  simp only [Predictor.lookup] at h
  split at h
  · cases h
  · next hh => simpa using hh

/-! ## The misprediction count -/

@[simp] theorem Predictor.countMispredict_cfg (p : Predictor) (m : Bool) : (p.countMispredict m).cfg = p.cfg := by
  cases m <;> rfl
@[simp] theorem Predictor.countMispredict_btb (p : Predictor) (m : Bool) : (p.countMispredict m).btb = p.btb := by
  cases m <;> rfl
@[simp] theorem Predictor.countMispredict_fsm (p : Predictor) (m : Bool) : (p.countMispredict m).fsm = p.fsm := by
  cases m <;> rfl
@[simp] theorem Predictor.countMispredict_ghr (p : Predictor) (m : Bool) : (p.countMispredict m).ghr = p.ghr := by
  cases m <;> rfl
@[simp] theorem Predictor.countMispredict_npred (p : Predictor) (m : Bool) :
    (p.countMispredict m).npred = p.npred := by cases m <;> rfl
theorem Predictor.countMispredict_nmisp (p : Predictor) (m : Bool) :
    (p.countMispredict m).nmisp = if m then p.nmisp + 1 else p.nmisp := by cases m <;> rfl
@[simp] theorem Predictor.countMispredict_slot (p : Predictor) (m : Bool) (i : Nat) :
    (p.countMispredict m).slot i = p.slot i := by cases m <;> rfl
@[simp] theorem Predictor.countMispredict_counter (p : Predictor) (m : Bool) (j : Nat) :
    (p.countMispredict m).counter j = p.counter j := by cases m <;> rfl

/-! ## Allocation (R76) -/

@[simp] theorem Predictor.allocate_cfg (p : Predictor) (i tag : Nat) (a : Word) : (p.allocate i tag a).cfg = p.cfg := by
  unfold Predictor.allocate; cases p.cfg.ts <;> rfl
@[simp] theorem Predictor.allocate_ghr (p : Predictor) (i tag : Nat) (a : Word) : (p.allocate i tag a).ghr = p.ghr := by
  unfold Predictor.allocate; cases p.cfg.ts <;> rfl
@[simp] theorem Predictor.allocate_npred (p : Predictor) (i tag : Nat) (a : Word) :
    (p.allocate i tag a).npred = p.npred := by unfold Predictor.allocate; cases p.cfg.ts <;> rfl
@[simp] theorem Predictor.allocate_nmisp (p : Predictor) (i tag : Nat) (a : Word) :
    (p.allocate i tag a).nmisp = p.nmisp := by unfold Predictor.allocate; cases p.cfg.ts <;> rfl

theorem Predictor.allocate_btb (p : Predictor) (i tag : Nat) (a : Word) :
    (p.allocate i tag a).btb =
      (p.setSlot i
        { v := true, tag := tag, tgt := targetField a,
          lh := match p.cfg.hs with
            | .perSlot => 0
            | .global => (p.slot i).lh }).btb := by
  unfold Predictor.allocate
  cases p.cfg.ts <;> rfl

theorem Predictor.allocate_slot (p : Predictor) (i tag : Nat) (a : Word) (k : Nat) :
    (p.allocate i tag a).slot k =
      if i = k then
        { v := true, tag := tag, tgt := targetField a,
          lh := match p.cfg.hs with
            | .perSlot => 0
            | .global => (p.slot i).lh }
      else p.slot k := by
  rw [← Predictor.slot_setSlot]
  unfold Predictor.allocate
  cases p.cfg.ts <;> rfl

theorem Predictor.allocate_counter (p : Predictor) (i tag : Nat) (a : Word) (k : Nat) :
    (p.allocate i tag a).counter k =
      if p.cfg.ts = .perSlot ∧ i * p.cfg.tableSize ≤ k ∧ k < i * p.cfg.tableSize + p.cfg.tableSize then p.cfg.ifs
      else p.counter k := by
  unfold Predictor.allocate
  cases p.cfg.ts with
  | global => simp
  | perSlot =>
    simp only [true_and]
    exact Predictor.counter_resetTable _ i k

/-! ## Updating in place (R77) -/

@[simp] theorem Predictor.updateInPlace_cfg (p : Predictor) (i j : Nat) (t : Bool) (a : Word) :
    (p.updateInPlace i j t a).cfg = p.cfg := rfl
@[simp] theorem Predictor.updateInPlace_ghr (p : Predictor) (i j : Nat) (t : Bool) (a : Word) :
    (p.updateInPlace i j t a).ghr = p.ghr := rfl
@[simp] theorem Predictor.updateInPlace_npred (p : Predictor) (i j : Nat) (t : Bool) (a : Word) :
    (p.updateInPlace i j t a).npred = p.npred := rfl
@[simp] theorem Predictor.updateInPlace_nmisp (p : Predictor) (i j : Nat) (t : Bool) (a : Word) :
    (p.updateInPlace i j t a).nmisp = p.nmisp := rfl

theorem Predictor.updateInPlace_slot (p : Predictor) (i j : Nat) (t : Bool) (a : Word) (k : Nat) :
    (p.updateInPlace i j t a).slot k = if i = k then { p.slot i with tgt := targetField a } else p.slot k :=
  Predictor.slot_setSlot _ i k _

theorem Predictor.updateInPlace_counter (p : Predictor) (i j : Nat) (t : Bool) (a : Word) (k : Nat) :
    (p.updateInPlace i j t a).counter k = if j = k then (p.counter j).trained t else p.counter k :=
  Predictor.counter_setCounter p j k _

/-! ## The history step (R80) -/

@[simp] theorem Predictor.shiftHistory_cfg (p : Predictor) (i : Nat) (t : Bool) : (p.shiftHistory i t).cfg = p.cfg := by
  unfold Predictor.shiftHistory; cases p.cfg.hs <;> rfl
@[simp] theorem Predictor.shiftHistory_fsm (p : Predictor) (i : Nat) (t : Bool) : (p.shiftHistory i t).fsm = p.fsm := by
  unfold Predictor.shiftHistory; cases p.cfg.hs <;> rfl
@[simp] theorem Predictor.shiftHistory_npred (p : Predictor) (i : Nat) (t : Bool) :
    (p.shiftHistory i t).npred = p.npred := by unfold Predictor.shiftHistory; cases p.cfg.hs <;> rfl
@[simp] theorem Predictor.shiftHistory_nmisp (p : Predictor) (i : Nat) (t : Bool) :
    (p.shiftHistory i t).nmisp = p.nmisp := by unfold Predictor.shiftHistory; cases p.cfg.hs <;> rfl
@[simp] theorem Predictor.shiftHistory_counter (p : Predictor) (i : Nat) (t : Bool) (j : Nat) :
    (p.shiftHistory i t).counter j = p.counter j := by
  unfold Predictor.shiftHistory; cases p.cfg.hs <;> rfl

theorem Predictor.shiftHistory_ghr (p : Predictor) (i : Nat) (t : Bool) :
    (p.shiftHistory i t).ghr = match p.cfg.hs with
      | .global => p.cfg.shifted p.ghr t
      | .perSlot => p.ghr := by
  unfold Predictor.shiftHistory; cases p.cfg.hs <;> rfl

theorem Predictor.shiftHistory_slot (p : Predictor) (i : Nat) (t : Bool) (k : Nat) :
    (p.shiftHistory i t).slot k =
      if i = k ∧ p.cfg.hs = .perSlot then { p.slot i with lh := p.cfg.shifted (p.slot i).lh t } else p.slot k := by
  unfold Predictor.shiftHistory
  cases p.cfg.hs with
  | global => simp only [reduceCtorEq, and_false, if_false]; rfl
  | perSlot => simpa using Predictor.slot_setSlot p i k _

/-! ## The canonical form is kept -/

theorem Predictor.setSlot_btb_wf {p : Predictor} {n i : Nat} (h : Cells.Wf Slot.cleared n p.btb) (hi : i < n)
    (sl : Slot) : Cells.Wf Slot.cleared n (p.setSlot i sl).btb :=
  Cells.Wf.write Slot.cleared h sl hi

theorem Predictor.setCounter_fsm_wf {p : Predictor} {n j : Nat} (h : Cells.Wf p.cfg.ifs n p.fsm) (hj : j < n)
    (c : FsmState) : Cells.Wf p.cfg.ifs n (p.setCounter j c).fsm :=
  Cells.Wf.write p.cfg.ifs h c hj

theorem Predictor.resetTable_fsm_wf {p : Predictor} {n : Nat} (h : Cells.Wf p.cfg.ifs n p.fsm) (i : Nat) :
    Cells.Wf p.cfg.ifs n (p.resetTable i).fsm :=
  Cells.Wf.clear p.cfg.ifs h _ _

theorem Predictor.allocate_btb_wf {p : Predictor} {n i : Nat} (h : Cells.Wf Slot.cleared n p.btb) (hi : i < n)
    (tag : Nat) (a : Word) : Cells.Wf Slot.cleared n (p.allocate i tag a).btb := by
  rw [Predictor.allocate_btb]
  exact Predictor.setSlot_btb_wf h hi _

theorem Predictor.allocate_fsm_wf {p : Predictor} {n : Nat} (h : Cells.Wf p.cfg.ifs n p.fsm) (i tag : Nat) (a : Word) :
    Cells.Wf p.cfg.ifs n (p.allocate i tag a).fsm := by
  unfold Predictor.allocate
  cases p.cfg.ts with
  | global => exact h
  | perSlot => exact Cells.Wf.clear p.cfg.ifs h _ _

theorem Predictor.shiftHistory_btb_wf {p : Predictor} {n i : Nat} (h : Cells.Wf Slot.cleared n p.btb) (hi : i < n)
    (t : Bool) : Cells.Wf Slot.cleared n (p.shiftHistory i t).btb := by
  unfold Predictor.shiftHistory
  cases p.cfg.hs with
  | global => exact h
  | perSlot => exact Predictor.setSlot_btb_wf h hi _

/-! ## Everything UPDATE does, on each path (R74) -/

theorem Predictor.resolved_hit {p : Predictor} {pc : Word} {j : Nat} (h : (p.lookup pc).counter = some j) (a : Word)
    (t : Bool) (g : Word) :
    p.resolved pc a t g =
      ((p.countMispredict (mispredicted pc t g)).updateInPlace (p.cfg.index pc) j t a).shiftHistory
        (p.cfg.index pc) t := by
  simp only [Predictor.resolved, h, Predictor.lookup_idx]

theorem Predictor.resolved_miss {p : Predictor} {pc : Word} (h : (p.lookup pc).counter = none) (a : Word) (t : Bool)
    (g : Word) :
    p.resolved pc a t g =
      ((p.countMispredict (mispredicted pc t g)).allocate (p.cfg.index pc) (p.cfg.tag pc) a).shiftHistory
        (p.cfg.index pc) t := by
  simp only [Predictor.resolved, h, Predictor.lookup_idx, Predictor.lookup_tag]

/-! ## Commands that need `LC = Ready` -/

theorem State.ifReady_ready {s : State} {p : Predictor} (h : s.lc = .ready p) (k : Predictor → State) :
    s.ifReady k = k p := by simp [State.ifReady, h]

theorem State.ifReady_notReady {s : State} (h : ∀ p, s.lc ≠ .ready p) (k : Predictor → State) :
    s.ifReady k = s.refuse .notReady := by
  unfold State.ifReady
  cases hl : s.lc with
  | ready p => exact absurd hl (h p)
  | uninit => rfl
  | released => rfl

/-- A command that needs `LC = Ready` either finds a predictor, or is refused NotReady. -/
theorem State.ifReady_cases (s : State) (k : Predictor → State) :
    (∃ p, s.lc = .ready p ∧ s.ifReady k = k p) ∨
      ((∀ p, s.lc ≠ .ready p) ∧ s.ifReady k = s.refuse .notReady) := by
  unfold State.ifReady
  cases h : s.lc with
  | ready p => exact .inl ⟨p, rfl, rfl⟩
  | uninit => exact .inr ⟨by simp, rfl⟩
  | released => exact .inr ⟨by simp, rfl⟩

end Sys2Proof.Machine
end

