-- ==== Sys2Proof/Laws/Exec.lean ====
section
/-! SUPPORT. Everything each command can do, said once: if it answers a next state, then one of these cases holds. -/

namespace Sys2Proof.Machine

theorem execInit_cases {cap hw tw : Word} {ifs : FsmState} {hs ts : Scope} {sm : SharingField} {s t : State}
    (h : execInit cap hw tw ifs hs ts sm s = .next t) :
    (sm = .reserved ∧ t = s.refuse .reservedEncoding) ∨
    (∃ m, sm = .mode m ∧ cap = 0 ∧ t = s.refuse .badConfig) ∨
    (∃ m, sm = .mode m ∧ cap ≠ 0 ∧ s.limits.admits cap hw tw = true ∧
      t = (s.setLc (.ready (Predictor.fresh
        { cap := cap, hw := hw, tw := tw, ifs := ifs, hs := hs, ts := ts, sm := m }))).respond (.init .ok)) ∨
    (∃ m, sm = .mode m ∧ cap ≠ 0 ∧ s.limits.admits cap hw tw = false ∧
      t = (s.setLc .uninit).respond (.init .allocFail)) := by
  unfold execInit at h
  split at h
  · cases h; exact .inl ⟨rfl, rfl⟩
  · next m =>
    split at h
    · next h0 => cases h; exact .inr (.inl ⟨m, rfl, h0, rfl⟩)
    · next h0 =>
      split at h
      · next ha => cases h; exact .inr (.inr (.inl ⟨m, rfl, h0, ha, rfl⟩))
      · next ha => cases h; exact .inr (.inr (.inr ⟨m, rfl, h0, by simpa using ha, rfl⟩))

theorem execPredict_cases {pc : Word} {s t : State} (h : execPredict pc s = .next t) :
    ((∀ p, s.lc ≠ .ready p) ∧ t = s.refuse .notReady) ∨
    ∃ p, s.lc = .ready p ∧
      ((misaligned pc = true ∧ t = s.refuse .misaligned) ∨
       (misaligned pc = false ∧ p.npred.toNat = statMax ∧ t = s.refuse .statOverflow) ∨
       (misaligned pc = false ∧ p.npred.toNat ≠ statMax ∧
        t = (s.setLc (.ready { p with npred := p.npred + 1 })).respond
          (.predict (p.prediction pc).1 (p.prediction pc).2))) := by
  simp only [execPredict, Host.Outcome.next.injEq] at h
  obtain ⟨p, hp, hk⟩ | ⟨hn, hk⟩ := State.ifReady_cases s _
  · refine .inr ⟨p, hp, ?_⟩
    rw [hk] at h
    split at h
    · next hm => exact .inl ⟨hm, h.symm⟩
    · next hm =>
      split at h
      · next hs => exact .inr (.inl ⟨by simpa using hm, hs, h.symm⟩)
      · next hs => exact .inr (.inr ⟨by simpa using hm, hs, h.symm⟩)
  · exact .inl ⟨hn, (hk ▸ h).symm⟩

theorem execUpdate_cases {pc a g : Word} {k : Bool} {s t : State} (h : execUpdate pc a k g s = .next t) :
    ((∀ p, s.lc ≠ .ready p) ∧ t = s.refuse .notReady) ∨
    ∃ p, s.lc = .ready p ∧
      (((misaligned pc || misaligned a || misaligned g) = true ∧ t = s.refuse .misaligned) ∨
       ((misaligned pc || misaligned a || misaligned g) = false ∧
        (mispredicted pc k g = true ∧ p.nmisp.toNat = statMax) ∧ t = s.refuse .statOverflow) ∨
       ((misaligned pc || misaligned a || misaligned g) = false ∧
        ¬ (mispredicted pc k g = true ∧ p.nmisp.toNat = statMax) ∧
        t = (s.setLc (.ready (p.resolved pc a k g))).respond .update)) := by
  simp only [execUpdate, Host.Outcome.next.injEq] at h
  obtain ⟨p, hp, hk⟩ | ⟨hn, hk⟩ := State.ifReady_cases s _
  · refine .inr ⟨p, hp, ?_⟩
    rw [hk] at h
    split at h
    · next hm => exact .inl ⟨hm, h.symm⟩
    · next hm =>
      split at h
      · next hs => exact .inr (.inl ⟨by simpa using hm, hs, h.symm⟩)
      · next hs => exact .inr (.inr ⟨by simpa using hm, hs, h.symm⟩)
  · exact .inl ⟨hn, (hk ▸ h).symm⟩

theorem execGetstats_cases {s t : State} (h : execGetstats s = .next t) :
    ((∀ p, s.lc ≠ .ready p) ∧ t = s.refuse .notReady) ∨
    ∃ p, s.lc = .ready p ∧
      ((p.cfg.hardwareBits > statMax ∧ t = s.refuse .statOverflow) ∨
       (p.cfg.hardwareBits ≤ statMax ∧
        t = (s.setLc .released).respond (.getstats p.npred p.nmisp (BitVec.ofNat 32 p.cfg.hardwareBits)))) := by
  simp only [execGetstats, Host.Outcome.next.injEq] at h
  obtain ⟨p, hp, hk⟩ | ⟨hn, hk⟩ := State.ifReady_cases s _
  · refine .inr ⟨p, hp, ?_⟩
    rw [hk] at h
    split at h
    · next hs => exact .inl ⟨hs, h.symm⟩
    · next hs => exact .inr ⟨by omega, h.symm⟩
  · exact .inl ⟨hn, (hk ▸ h).symm⟩

/-- A step waits, refuses a reserved word, or runs the decoded command. -/
theorem step_cases {s t : State} (h : step s = .next t) :
    (decode s.pending = .incomplete ∧ t = s) ∨
    (∃ why rest, decode s.pending = .rejected why rest ∧ t = { s with pending := rest }.refuse .reservedEncoding) ∨
    ∃ i rest, decode s.pending = .command i rest ∧ exec i { s with pending := rest } = .next t := by
  unfold step at h
  split at h
  · next hd => cases h; exact .inl ⟨hd, rfl⟩
  · next why rest hd => cases h; exact .inr (.inl ⟨why, rest, hd, rfl⟩)
  · next i rest hd => exact .inr (.inr ⟨i, rest, hd, h⟩)

end Sys2Proof.Machine
end

