-- ==== Sys2Proof/Tests/Slice0.lean ====
section
/-! SUPPORT. Tests with the expected results of 95_test_vectors.md (vector ids named), the well-formedness smoke, and for
each statement with hypotheses a concrete state and operands that meet them all. -/

namespace Sys2Proof.Tests

open Sys2Proof.Machine

/-! ## Helpers -/

/-- The next state, if any. -/
def next (o : Host.Outcome State Fault Refusal) : Option State :=
  match o with
  | .next s => some s
  | .fault _ => none
  | .refused _ => none

/-- The predictor of a ready machine. -/
def pred (o : Host.Outcome State Fault Refusal) : Option Predictor :=
  match next o with
  | some s =>
    match s.lc with
    | .ready p => some p
    | .uninit => none
    | .released => none
  | none => none

/-- An instance with room for the test vectors. -/
def idle : State := { State.reset with limits := { maxBtbCapacity := 64, maxHistoryWidth := 24, maxTagWidth := 40 } }

/-- That instance, ready with a predictor. -/
def ready (p : Predictor) : State := { idle with lc := .ready p }

/-- `1,1,0,WT,G,G,NONE`, the configuration of V1. -/
def cfgV1 : Configuration := { cap := 1, hw := 1, tw := 0, ifs := .wt, hs := .global, ts := .global, sm := .noShare }

/-- `2,2,1,WNT,L,L,NONE`, the configuration of P3. -/
def cfgP3 : Configuration :=
  { cap := 2, hw := 2, tw := 1, ifs := .wnt, hs := .perSlot, ts := .perSlot, sm := .noShare }

/-- `4,2,2,WNT,G,G,LSB`, the configuration of P2. -/
def cfgP2 : Configuration :=
  { cap := 4, hw := 2, tw := 2, ifs := .wnt, hs := .global, ts := .global, sm := .lsbShare }

/-- `2,2,4,WT,L,G,MID`, the configuration of P4. -/
def cfgP4 : Configuration :=
  { cap := 2, hw := 2, tw := 4, ifs := .wt, hs := .perSlot, ts := .global, sm := .midShare }

/-- V1 after command 3: slot 0 = (V 1, TAG 0, target 100), GHR = 1, FSM = [WT, WT]. -/
def predV1 : Predictor :=
  { Predictor.fresh cfgV1 with btb := [(0, ⟨true, 0, 25, 0⟩)], ghr := 1, npred := 1, nmisp := 1 }

/-- P3 after command 7: slot 0 = (V 1, TAG 0, target 0x100, LH 3), its table [WNT, WT, WNT, WT]. -/
def predP3 : Predictor :=
  { Predictor.fresh cfgP3 with
    btb := [(0, ⟨true, 0, 0x40, 3⟩)], fsm := [(1, .wt), (3, .wt)], npred := 3, nmisp := 3 }

/-! ## Well-formedness smoke -/

theorem test_reserved_sharing_is_ill_formed :
    (Instr.init 1 1 0 .wt .global .global .reserved).wellFormed = false := by decide

theorem test_every_mode_is_well_formed :
    (Instr.init 1 1 0 .wt .global .global (.mode .midShare)).wellFormed = true := by decide

/-! ## Decoding: words written out from R48 to R51, bit by bit -/

/-- E3: SM 10, TS 0, HS 1, IFS 10, OP 001. -/
theorem test_decode_init :
    decode [0b00000000000000000000000_10_0_1_10_001, 2, 2, 4] =
      .command (.init 2 2 4 .wt .perSlot .global (.mode .midShare)) [] := by decide

theorem test_decode_init_table_scope :
    decode [0b00000000000000000000000_01_1_0_11_001, 5, 6, 7] =
      .command (.init 5 6 7 .st .global .perSlot (.mode .lsbShare)) [] := by decide

theorem test_decode_predict :
    decode [0b00000000000000000000000000000_010, 0x4C] = .command (.predict 0x4C) [] := by decide

theorem test_decode_update_taken :
    decode [0b0000000000000000000000000000_1_011, 0, 100, 4] = .command (.update 0 100 true 4) [] := by decide

theorem test_decode_update_not_taken :
    decode [0b0000000000000000000000000000_0_011, 8, 12, 16, 9] = .command (.update 8 12 false 16) [9] := by decide

theorem test_decode_getstats :
    decode [0b00000000000000000000000000000_100] = .command .getstats [] := by decide

/-- E4, E5, E7, E9, E11. -/
theorem test_decode_rejects_by_name :
    decode [0x189, 1, 1, 0] = .rejected .reservedSharing [] ∧ decode [0x201, 1, 1, 0] = .rejected .reservedBits [] ∧
    decode [0xA, 0] = .rejected .reservedBits [] ∧ decode [0x13, 0, 0, 0] = .rejected .reservedBits [] ∧
    decode [0xC] = .rejected .reservedBits [] ∧ decode [0] = .rejected .reservedOp [] ∧
    decode [5] = .rejected .reservedOp [] ∧ decode [6] = .rejected .reservedOp [] ∧
    decode [7] = .rejected .reservedOp [] := by decide

/-- The host's table rows, operand words of zeros. -/
theorem test_table_words :
    decodeTableWord 32 0x00000001 = some (.init 0 0 0 .snt .global .global (.mode .noShare)) ∧
    decodeTableWord 32 0x00000002 = some (.predict 0) ∧ decodeTableWord 32 0x0000000B = some (.update 0 0 true 0) ∧
    decodeTableWord 32 0x00000004 = some .getstats ∧ decodeTableWord 32 0x00000181 = none := by decide

/-- X1 and R89: from power-on each table row runs, and is refused for the reason R92 puts first. -/
theorem test_table_words_run_from_reset :
    (next (step (State.reset.withFetchWord 32 1))).map (·.refusal) = some (some .badConfig) ∧
    (next (step (State.reset.withFetchWord 32 2))).map (·.refusal) = some (some .notReady) ∧
    (next (step (State.reset.withFetchWord 32 3))).map (·.refusal) = some (some .notReady) ∧
    (next (step (State.reset.withFetchWord 32 4))).map (·.refusal) = some (some .notReady) := by decide

/-! ## Lookup (LK1, LK3, LK4, LK5, LK7, LK8, LK10, LK11) -/

theorem test_index_and_tag :
    ({ cfgP2 with cap := 4, tw := 3 }.index 0x1234, { cfgP2 with cap := 4, tw := 3 }.tag 0x1234) = (1, 3) ∧
    ({ cfgP2 with cap := 3 }.index 0x1C, { cfgP2 with cap := 3 }.tag 0x1C) = (1, 1) ∧
    ({ cfgP2 with cap := 3 }.index 0xC, { cfgP2 with cap := 3 }.tag 0xC) = (0, 0) ∧
    ({ cfgP2 with cap := 8, tw := 30 }.index 0xFFFFFFFC, { cfgP2 with cap := 8, tw := 30 }.tag 0xFFFFFFFC) =
      (7, 0x7FFFFFF) := by decide

theorem test_share_bits :
    cfgP2.shareBits 0xC = 3 ∧ { cfgP2 with sm := .midShare, hw := 4 }.shareBits 0x50000 = 5 ∧
    { cfgP2 with sm := .midShare, hw := 20 }.shareBits 0xFFFF0000 = 0xFFFF ∧
    { cfgP2 with ts := .perSlot }.shareBits 0xC = 0 ∧ { cfgP2 with ts := .perSlot }.fsmAddr 3 2 = 14 := by decide

/-- M1 to M5. -/
theorem test_mispredicted :
    mispredicted 0x100 false 0x104 = false ∧ mispredicted 0x100 true 0x104 = true ∧
    mispredicted 0x100 false 0x200 = true ∧ mispredicted 0x100 true 0x200 = false ∧
    mispredicted 0xFFFFFFFC false 0 = false := by decide

/-- H1: T, T, N, T, T gives 1, 3, 6, 5, 3 with HW = 3. -/
theorem test_history_shift :
    { cfgV1 with hw := 3 }.shifted 0 true = 1 ∧ { cfgV1 with hw := 3 }.shifted 1 true = 3 ∧
    { cfgV1 with hw := 3 }.shifted 3 false = 6 ∧ { cfgV1 with hw := 3 }.shifted 6 true = 5 ∧
    { cfgV1 with hw := 3 }.shifted 5 true = 3 ∧ { cfgV1 with hw := 0 }.shifted 0 true = 0 := by decide

/-- G2, G3, IN1. -/
theorem test_hardware_bits :
    { cfgP2 with cap := 32, hw := 8, tw := 10 }.hardwareBits = 1832 ∧
    { cfgP4 with cap := 16, hw := 4, tw := 5 }.hardwareBits = 672 ∧
    { cfgP3 with cap := 3, hw := 2, tw := 1 }.hardwareBits = 126 := by decide

/-! ## One step of each command -/

/-- V1 command 1. -/
theorem test_init_ok :
    pred (exec (.init 1 1 0 .wt .global .global (.mode .noShare)) idle) = some (Predictor.fresh cfgV1) := by decide

/-- IN3, with MAX_BTB_CAPACITY = 64. -/
theorem test_init_alloc_fail :
    next (exec (.init 65 1 1 .wt .global .global (.mode .noShare)) (ready predV1)) =
      some { idle with responses := [.init .allocFail] } := by decide

/-- V1 command 4: the hit answers the stored target, and NPRED goes to 2. -/
theorem test_predict_hit :
    next (exec (.predict 0) (ready predV1)) =
      some { ready { predV1 with npred := 2 } with responses := [.predict true 0x64] } := by decide

/-- P3 command 8: a conflict miss answers the fall-through. -/
theorem test_predict_conflict_miss :
    (next (exec (.predict 0x18) (ready predP3))).map (·.responses) = some [.predict false 0x1C] := by decide

/-- U8, P3 command 9: slot 0 given to B, its table reset, LH reset then N shifted in. -/
theorem test_update_allocates :
    pred (exec (.update 0x18 0x200 false 0x1C) (ready predP3)) =
      some { predP3 with btb := [(0, ⟨true, 1, 0x80, 0⟩)], fsm := [] } := by decide

/-- P1 command 7: in place at j = 1 from ST, GHR to 0, NMISP to 2. -/
theorem test_update_in_place :
    pred (exec (.update 0 0x64 false 0x64) (ready { predV1 with fsm := [(1, .st)] })) =
      some { predV1 with ghr := 0, nmisp := 2 } := by decide

/-- V1 command 5, with NPRED = 2. -/
theorem test_getstats :
    next (exec .getstats (ready { predV1 with npred := 2 })) =
      some { idle with lc := .released, responses := [.getstats 2 1 36] } := by decide

/-- X2, X3, X4: the mark takes the first reason, and a later refusal keeps it. -/
theorem test_refusals :
    (next (exec (.predict 2) (ready predV1))).map (·.refusal) = some (some .misaligned) ∧
    (next (exec (.update 0 0x41 true 4) (ready predV1))).map (·.refusal) = some (some .misaligned) ∧
    (next (exec (.predict 0) (ready { predV1 with npred := 0xFFFFFFFF }))).map (·.refusal) =
      some (some .statOverflow) ∧
    (next (exec (.predict 0) { idle with refusal := some .misaligned })).map (·.refusal) =
      some (some .misaligned) := by decide

/-! ## Witnesses: for each statement with hypotheses, a state and operands that meet them -/

/-- A state whose waiting words are `ws`. -/
def waiting (ws : List Word) : State := { idle with pending := ws }

/-- The slot of a one-slot list. -/
theorem slot_of_one (p : Predictor) (i k : Nat) (sl : Slot) (h : p.btb = [(k, sl)]) :
    p.slot i = if k = i then sl else Slot.cleared := by
  simp [Predictor.slot, h, Cells.read]

theorem witness_predV1_inv : predV1.Inv idle.limits where
  legal := ⟨by decide, by decide, by decide, by decide⟩
  btb_wf := by decide
  fsm_wf := by decide
  slots i := by
    rw [slot_of_one predV1 i 0 ⟨true, 0, 25, 0⟩ rfl]
    split <;> exact ⟨by decide, by decide, by decide, by decide⟩
  ghr_lt := by decide
  no_ghr := by decide

theorem witness_predP3_inv : predP3.Inv idle.limits where
  legal := ⟨by decide, by decide, by decide, by decide⟩
  btb_wf := by decide
  fsm_wf := by decide
  slots i := by
    rw [slot_of_one predP3 i 0 ⟨true, 0, 0x40, 3⟩ rfl]
    split <;> exact ⟨by decide, by decide, by decide, by decide⟩
  ghr_lt := by decide
  no_ghr := by decide

theorem witness_ready_inv : (ready predV1).Inv ∧ (ready predP3).Inv :=
  ⟨⟨by decide, fun p h => by cases h; exact witness_predV1_inv⟩,
    ⟨by decide, fun p h => by cases h; exact witness_predP3_inv⟩⟩

/-- The least exponents of the capacities 1 and 4, as R13 says it. -/
theorem witness_index_bits : (∀ k, cfgV1.cap.toNat ≤ 2 ^ k ↔ 0 ≤ k) ∧ (∀ k, cfgP2.cap.toNat ≤ 2 ^ k ↔ 2 ≤ k) := by
  refine ⟨fun k => ⟨fun _ => Nat.zero_le k, fun _ => Nat.one_le_two_pow⟩, fun k => ?_⟩
  exact (Nat.pow_le_pow_iff_right (a := 2) (n := 2) (m := k) (by decide))

/-- DecodeOfEncodeIsTheCommand: both hypotheses are met. -/
theorem witness_decode_of_encode :
    (Instr.predict 0xFFFFFFFF).wellFormed = true ∧ (Instr.init 0 0 0 .st .perSlot .perSlot .reserved).wellFormed = false := by
  decide

/-- DecodedWordsAreTheCommandsOwn, StepRunsTheDecodedCommand. -/
theorem witness_decoded :
    decode (waiting [0x0000000B, 0, 100, 4, 4]).pending = .command (.update 0 100 true 4) [4] := by decide

/-- ReservedEncodingsAreRefused: words for each reserved clause, and one for the other side. -/
theorem witness_reserved_words :
    ([5] : List Word) = 5 :: ([] ++ []) ∧ (5 : Word).toNat % 8 = 5 ∧
    (0x80000001 : Word).toNat % 8 = 1 ∧ (0x80000001 : Word).toNat / 2 ^ 9 ≠ 0 ∧
    (0xA : Word).toNat % 8 = 2 ∧ (0xA : Word).toNat / 2 ^ 3 ≠ 0 ∧
    (0xC : Word).toNat % 8 = 4 ∧ (0xC : Word).toNat / 2 ^ 3 ≠ 0 ∧
    (0x13 : Word).toNat % 8 = 3 ∧ (0x13 : Word).toNat / 2 ^ 4 ≠ 0 ∧
    (0x189 : Word).toNat % 8 = 1 ∧ (0x189 : Word).toNat / 2 ^ 9 = 0 ∧ (0x189 : Word).toNat / 2 ^ 7 % 4 = 3 ∧
    (waiting [0x131, 2, 2, 4, 4]).pending = 0x131 :: ([2, 2, 4] ++ [4]) ∧
    (0x131 : Word).toNat % 8 = 1 ∧ (0x131 : Word).toNat / 2 ^ 9 = 0 ∧ (0x131 : Word).toNat / 2 ^ 7 % 4 ≠ 3 := by decide

/-- StepWaitsForAWholeCommand: each clause, with one operand word missing at the boundary. -/
theorem witness_incomplete :
    idle.pending = [] ∧ (waiting [0x11, 1, 1]).pending = 0x11 :: [1, 1] ∧ (0x11 : Word).toNat % 8 = 1 ∧
    (0xB : Word).toNat % 8 = 3 ∧ (waiting [2]).pending = [2] ∧ (2 : Word).toNat % 8 = 2 := by decide

/-- FetchedTableWordRuns. -/
theorem witness_table_word : decodeTableWord 64 0x0000004C00000002 = some (.predict 0x4C) := by decide

/-- RefusalMarkIsNeverCleared: an INIT that succeeds on a marked state. -/
theorem witness_marked_step :
    next (step { waiting [0x11, 1, 1, 0] with refusal := some .notReady }) =
      some { ready (Predictor.fresh cfgV1) with refusal := some .notReady, responses := [.init .ok] } := by decide

/-- InitConfiguresAndClears, InitForgetsThePast, AllocFailExactlyBeyondTheInstance: operands at and beyond the limits. -/
theorem witness_init_operands :
    1 ≤ (64 : Word).toNat ∧ (64 : Word).toNat ≤ idle.limits.maxBtbCapacity ∧
    (24 : Word).toNat ≤ idle.limits.maxHistoryWidth ∧ (40 : Word).toNat ≤ idle.limits.maxTagWidth ∧
    idle.limits.maxBtbCapacity < (65 : Word).toNat ∧ idle.limits.maxHistoryWidth < (25 : Word).toNat ∧
    idle.limits.maxTagWidth < (41 : Word).toNat := by decide

/-- AllocFailExactlyBeyondTheInstance: an ALLOC_FAIL answered. -/
theorem witness_alloc_fail :
    (next (exec (.init 65 1 1 .wt .global .global (.mode .noShare)) idle)).map (·.responses) =
      some (idle.responses ++ [.init .allocFail]) ∧ idle.lc = .uninit := by decide

/-- InitForgetsThePast: one INIT from a fresh and from a used machine, with words waiting. -/
theorem witness_init_from_two_pasts :
    idle.limits = (ready predP3).limits ∧ idle.pending = (ready predP3).pending ∧
    (next (exec (.init 1 1 0 .wt .global .global (.mode .noShare)) idle)).isSome = true ∧
    (next (exec (.init 1 1 0 .wt .global .global (.mode .noShare)) (ready predP3))).isSome = true := by decide

/-- OutsideReadyOnlyInitIsAccepted: both lifecycle values. -/
theorem witness_outside_ready : idle.lc = .uninit ∧ { idle with lc := .released }.lc = .released := by decide

/-- OnlyInitWritesTheConfiguration, CountsOnlyGrow, UpdateWritesOnlyItsSlot, MispredictionIsADirectionMismatch,
AllocatedBranchStartsFromTheInitialState: an UPDATE that is not refused, from a ready state, missing, under TS = Local. -/
theorem witness_update_answers :
    (ready predP3).lc = .ready predP3 ∧ predP3.cfg.ts = .perSlot ∧ (predP3.lookup 0x18).counter = none ∧
    next (exec (.update 0x18 0x200 false 0x1C) (ready predP3)) =
      some { ready { predP3 with btb := [(0, ⟨true, 1, 0x80, 0⟩)], fsm := [] } with
        responses := (ready predP3).responses ++ [.update] } := by decide

/-- GetstatsReportsAndReleases, ObservedRunReportsItsPredictions. -/
theorem witness_getstats :
    (ready predV1).lc = .ready predV1 ∧ predV1.cfg.hardwareBits ≤ 2 ^ 32 - 1 ∧ (ready predV1).refusal = none := by decide

/-- StepKeepsTheCountOfPredictions, ObservedRunReportsItsPredictions: a run with one PREDICT answered. -/
theorem witness_counts_predictions :
    { ready predV1 with responses := [.init .ok, .predict false 4, .update] }.CountsPredictions := by
  intro p h
  cases h
  decide

/-- StepKeepsTheInvariant, StepKeepsTheCountOfPredictions: a step from a state that meets both. -/
theorem witness_step_answers : (next (step (ready predV1))).isSome = true := by decide

/-- IndexIsTheRemainder: a capacity of no power of two, a power of two, and 1. -/
theorem witness_capacities :
    1 ≤ ({ cfgP2 with cap := 3 } : Configuration).cap.toNat ∧ cfgP2.cap.toNat = 2 ^ 2 ∧ cfgV1.cap.toNat = 1 := by decide

/-- TagIsTheBitsAboveTheIndex: with `witness_index_bits`, a bit past the top of `a`, and TW = 0. -/
theorem witness_tag : 30 ≤ 28 + 2 ∧ cfgV1.tw.toNat = 0 := by decide

/-- SharingBitsOfEachMode: every clause, and a history that fits. -/
theorem witness_sharing :
    cfgV1.sm = .noShare ∧ cfgP3.ts = .perSlot ∧ (cfgP2.sm = .lsbShare ∧ cfgP2.ts = .global) ∧
    (cfgP4.sm = .midShare ∧ cfgP4.ts = .global) ∧
    predV1.history (predV1.cfg.index 0) < 2 ^ predV1.cfg.hw.toNat := by decide

/-- CounterAddressIsInRange: the last slot and the last history value, in both scopes. -/
theorem witness_counter_address :
    1 < cfgP3.cap.toNat ∧ 3 < 2 ^ cfgP3.hw.toNat ∧ cfgP3.ts = .perSlot ∧
    3 < cfgP2.cap.toNat ∧ 3 < 2 ^ cfgP2.hw.toNat ∧ cfgP2.ts = .global := by decide

/-- LookupFollowsTheSpec and LookupStaysInsideTheStorage: a hit (the invariant is `witness_predV1_inv`) and a miss. -/
theorem witness_lookup :
    (predV1.lookup 0).counter = some 1 ∧ ((predV1.slot 0).v = true ∧ (predV1.slot 0).tag = 0) ∧
    ((Predictor.fresh cfgV1).slot 0).v = false := by decide

/-- SharingBitsAreFixedPerSlot: two pcs of one slot and tag, LSB-share with HW = IB + TW, then Mid-share with
14 + HW = IB + TW. -/
theorem witness_sharing_fixed :
    cfgP2.index 0x4C = cfgP2.index 0x14C ∧ cfgP2.tag 0x4C = cfgP2.tag 0x14C ∧ cfgP2.cap.toNat = 2 ^ 2 ∧
    cfgP2.hw.toNat ≤ 2 + cfgP2.tw.toNat ∧
    14 + { cfgP4 with tw := 15 }.hw.toNat ≤ 1 + { cfgP4 with tw := 15 }.tw.toNat ∧
    { cfgP4 with tw := 15 }.cap.toNat = 2 ^ 1 ∧
    { cfgP4 with tw := 15 }.index 0x10000 = { cfgP4 with tw := 15 }.index 0x10010000 ∧
    { cfgP4 with tw := 15 }.tag 0x10000 = { cfgP4 with tw := 15 }.tag 0x10010000 := by decide

/-- PredictAnswersDirectionAndTarget, PredictWritesOnlyItsCount: a hit that predicts
taken, a hit that does not, a miss; and a state without a predictor. -/
theorem witness_predict :
    (ready predV1).lc = .ready predV1 ∧ (0 : Word).toNat % 4 = 0 ∧ predV1.npred.toNat + 1 < 2 ^ 32 - 1 ∧
    ((predV1.lookup 0).counter = some 1 ∧ predV1.counter 1 = .wt) ∧
    (({ predV1 with fsm := [(1, .wnt)] } : Predictor).counter 1 = .wnt) ∧ ((Predictor.fresh cfgV1).lookup 0).counter = none ∧
    (next (exec (.predict 0) (ready predV1))).isSome = true ∧ (next (exec (.predict 0) idle)).isSome = true := by decide

/-- PredictionReadsOneSlot, TS = Local: a predictor in order and one that differs in the other slot and its table. -/
theorem witness_one_slot :
    let q : Predictor := { predP3 with
      btb := [(0, ⟨true, 0, 0x40, 3⟩), (1, ⟨true, 1, 9, 2⟩)], fsm := [(1, .wt), (3, .wt), (5, .st)] }
    predP3.Inv idle.limits ∧ q ≠ predP3 ∧ q.cfg = predP3.cfg ∧
    q.slot (predP3.cfg.index 0x10) = predP3.slot (predP3.cfg.index 0x10) ∧
    (predP3.cfg.hs = .global → q.ghr = predP3.ghr) ∧
    (∀ hv, hv < 2 ^ predP3.cfg.hw.toNat →
      q.counter (predP3.cfg.fsmAddr (predP3.cfg.index 0x10) hv) =
        predP3.counter (predP3.cfg.fsmAddr (predP3.cfg.index 0x10) hv)) :=
  ⟨witness_predP3_inv, by decide, rfl, by decide, by decide, by decide⟩

/-- ... and TS = Global, HS = Global: one that differs in what it has counted. -/
theorem witness_one_slot_global :
    let q : Predictor := { predV1 with npred := 9 }
    predV1.Inv idle.limits ∧ q ≠ predV1 ∧ q.cfg = predV1.cfg ∧
    q.slot (predV1.cfg.index 0) = predV1.slot (predV1.cfg.index 0) ∧ q.ghr = predV1.ghr ∧
    ∀ hv, q.counter (predV1.cfg.fsmAddr (predV1.cfg.index 0) hv) =
      predV1.counter (predV1.cfg.fsmAddr (predV1.cfg.index 0) hv) :=
  ⟨witness_predV1_inv, by decide, rfl, rfl, rfl, fun _ => rfl⟩

/-- RepeatedPredictAnswersTheSame, first part: a PREDICT of another pc and a refused one between, and with NPRED far
from its limit; second part: the same PREDICTs, of which one is aligned. -/
theorem witness_repeated_predict :
    let t : State := { ready { predV1 with npred := 2 } with responses := [.predict true 0x64] }
    let u : State := { ready { predV1 with npred := 3 } with
      refusal := some .misaligned, responses := [.predict true 0x64, .predict true 0x64] }
    next (exec (.predict 0) (ready predV1)) = some t ∧
    next (runCommands [.predict 8, .predict 2] t) = some u ∧
    next (exec (.predict 0) u) =
      some { u with lc := .ready { predV1 with npred := 4 }, responses := u.responses ++ [.predict true 0x64] } ∧
    ([8, 2] : List Word).countP (fun x => x.toNat % 4 = 0) = 1 ∧ predV1.npred.toNat + 1 + 1 < 2 ^ 32 - 1 := by decide

/-- ReadyCommandsAreRefusedInOrder: every clause at its boundary. -/
theorem witness_refused_operands :
    (1 : Word).toNat % 4 ≠ 0 ∧ (0xFFFFFFFC : Word).toNat % 4 = 0 ∧ (0xFFFFFFFF : Stat).toNat = 2 ^ 32 - 1 ∧
    (((4 : Word).toNat ≠ ((0 : Word).toNat + 4) % 2 ^ 32) ↔ true = false) ∧
    2 ^ 32 - 1 < ({ cfgV1 with hw := 31 } : Configuration).hardwareBits := by decide

/-- UpdateAllocatesOnAMiss and UpdateTrainsOnAHit: aligned operands, a count with room, a miss and a hit. -/
theorem witness_update :
    (ready predP3).lc = .ready predP3 ∧ (0x18 : Word).toNat % 4 = 0 ∧ (0x200 : Word).toNat % 4 = 0 ∧
    (0x1C : Word).toNat % 4 = 0 ∧ predP3.nmisp.toNat < 2 ^ 32 - 1 ∧ (predP3.lookup 0x18).counter = none ∧
    (predP3.lookup 0x10).counter = some 3 := by decide

/-- ... and a full count with a correct prediction, which completes too. -/
theorem witness_update_full_count :
    ¬ (((0x1C : Word).toNat ≠ ((0x18 : Word).toNat + 4) % 2 ^ 32) ↔ false = false) := by decide

/-- ThreeUpdatesSaturateACounter: with HW = 0 the address is always 0. -/
def predThree (c : FsmState) (m : Stat) : Predictor :=
  { Predictor.fresh { cfgV1 with hw := 0, ifs := .wnt } with
    btb := [(0, ⟨true, 0, 25, 0⟩)], fsm := if c = .wnt then [] else [(0, c)], nmisp := m }

theorem witness_three_updates :
    next (exec (.update 0 100 true 100) (ready (predThree .snt 0))) =
      some { ready (predThree .wnt 0) with responses := [.update] } ∧
    next (exec (.update 0 100 true 100) { ready (predThree .wnt 0) with responses := [.update] }) =
      some { ready (predThree .wt 0) with responses := [.update, .update] } ∧
    next (exec (.update 0 100 true 100) { ready (predThree .wt 0) with responses := [.update, .update] }) =
      some { ready (predThree .st 0) with responses := [.update, .update, .update] } ∧
    ((predThree .snt 0).lookup 0).counter = some 0 ∧ ((predThree .wnt 0).lookup 0).counter = some 0 ∧
    ((predThree .wt 0).lookup 0).counter = some 0 := by decide

/-- HistoryHoldsTheLatestOutcomes: two UPDATEs, none refused. -/
theorem witness_history :
    predV1.cfg.hs = .global ∧ predV1.ghr < 2 ^ predV1.cfg.hw.toNat ∧
    (next (runCommands (updates [(0, 100, true, 100), (0, 100, false, 4)]) (ready predV1))).map (·.refusal) =
      some none := by decide

/-- PairedUpdateCountsWrongDirections: a PREDICT and its UPDATE; with the stored target equal to pc + 4, the other
clause (P-4 and U7). -/
theorem witness_pair :
    next (exec (.predict 0) (ready predV1)) =
      some { ready { predV1 with npred := 2 } with responses := [.predict true 0x64] } ∧
    next (exec (.update 0 0x64 true 0x64) { ready { predV1 with npred := 2 } with responses := [.predict true 0x64] }) =
      some { ready { predV1 with npred := 2, fsm := [(1, .st)] } with
        responses := [.predict true 0x64, .update] } ∧
    (next (exec (.predict 0) (ready { predV1 with btb := [(0, ⟨true, 0, 1, 0⟩)] }))).map (·.responses) =
      some [.predict true 4] := by decide

/-- LocalSlotsAreIsolated: with `witness_ready_inv`, an UPDATE of slot 1 beside slot 0. -/
theorem witness_isolation :
    predP3.cfg.hs = .perSlot ∧ predP3.cfg.ts = .perSlot ∧
    (4 : Word).toNat / 4 % predP3.cfg.cap.toNat ≠ (0x10 : Word).toNat / 4 % predP3.cfg.cap.toNat ∧
    (pred (exec (.update 4 0x20 true 8) (ready predP3))).isSome = true := by decide

/-- StorageIsDeterminedByItsReads: canonical storages with something listed. -/
theorem witness_canonical :
    Cells.Wf FsmState.wnt 8 predP3.fsm ∧ Cells.Wf Slot.cleared 8 predP3.btb := by decide

end Sys2Proof.Tests
end

section
/-! PROOFS. The statements of 00_scope.md: the arithmetic of R13, and the command a step runs (R8). -/

namespace Sys2Proof.Machine

theorem clog2_of_le_one {n : Nat} (h : n ≤ 1) : clog2 n = 0 := if_pos h

theorem clog2_of_one_lt {n : Nat} (h : 1 < n) : clog2 n = Nat.log2 (n - 1) + 1 := if_neg (by omega)

/-- Settles O21: above 1, `n ≤ 2 ^ k` says `n - 1 < 2 ^ k`, which is what bounds the binary logarithm of `n - 1`. -/
theorem clogIsTheLeastExponent : Obligations.ClogIsTheLeastExponent := by
  intro n k
  have hpow : 1 ≤ 2 ^ k := Nat.one_le_two_pow
  obtain hn | hn := le_or_gt n 1
  · simp [clog2_of_le_one hn, hn.trans hpow]
  · have hlog : Nat.log2 (n - 1) < k ↔ n - 1 < 2 ^ k := Nat.log2_lt (by omega)
    rw [clog2_of_one_lt hn, Nat.succ_le_iff, hlog]
    omega

/-- The equation of `step` when a whole command waits; its converse is the last case of `step_cases`. -/
theorem step_of_decode_command {s : State} {i : Instr} {rest : List Word} (h : decode s.pending = .command i rest) :
    step s = exec i { s with pending := rest } := by
  simp only [step, h]

/-- Settles O6, by the equation of `step` for a decoded command. -/
theorem stepRunsTheDecodedCommand : Obligations.StepRunsTheDecodedCommand :=
  fun _ _ _ => step_of_decode_command

end Sys2Proof.Machine
end

section
/-! PROOFS. The statements of 10_state.md: what a command does to the predictor, and the invariant of R29. -/

namespace Sys2Proof.Machine

/-! ## What a command leaves in `LC` -/

theorem exec_limits {i : Instr} {s t : State} (h : exec i s = .next t) : t.limits = s.limits := by
  cases i with
  | init cap hw tw ifs hs ts sm =>
    obtain ⟨-, rfl⟩ | ⟨-, -, -, rfl⟩ | ⟨-, -, -, -, rfl⟩ | ⟨-, -, -, -, rfl⟩ := execInit_cases h <;> rfl
  | predict pc =>
    obtain ⟨-, rfl⟩ | ⟨p, -, ⟨-, rfl⟩ | ⟨-, -, rfl⟩ | ⟨-, -, rfl⟩⟩ := execPredict_cases h <;> rfl
  | update pc a k g =>
    obtain ⟨-, rfl⟩ | ⟨p, -, ⟨-, rfl⟩ | ⟨-, -, rfl⟩ | ⟨-, -, rfl⟩⟩ := execUpdate_cases h <;> rfl
  | getstats =>
    obtain ⟨-, rfl⟩ | ⟨p, -, ⟨-, rfl⟩ | ⟨-, rfl⟩⟩ := execGetstats_cases h <;> rfl

theorem Limits.admits_iff {l : Limits} {cap hw tw : Word} :
    l.admits cap hw tw = true ↔
      cap.toNat ≤ l.maxBtbCapacity ∧ hw.toNat ≤ l.maxHistoryWidth ∧ tw.toNat ≤ l.maxTagWidth := by
  simp [Limits.admits, and_assoc]

/-- The configuration of a successful INIT is legal (R18, R84, R89). -/
theorem Configuration.legal_of_admits {l : Limits} {c : Configuration} (h0 : c.cap ≠ 0)
    (h : l.admits c.cap c.hw c.tw = true) : c.Legal l := by
  obtain ⟨hcap, hhw, htw⟩ := Limits.admits_iff.1 h
  have hpos : c.cap.toNat ≠ 0 := fun h => h0 (BitVec.eq_of_toNat_eq h)
  exact ⟨Nat.one_le_iff_ne_zero.2 hpos, hcap, hhw, htw⟩

/-- Where a predictor after a command comes from: it was there, or INIT made it, or PREDICT or UPDATE changed it. -/
theorem exec_ready_cases {i : Instr} {s t : State} {q : Predictor} (h : exec i s = .next t) (hq : t.lc = .ready q) :
    s.lc = .ready q ∨
    (∃ c : Configuration, c.Legal s.limits ∧ q = Predictor.fresh c ∧
      i = .init c.cap c.hw c.tw c.ifs c.hs c.ts (.mode c.sm)) ∨
    (∃ pc p, i = .predict pc ∧ s.lc = .ready p ∧ p.npred.toNat ≠ statMax ∧ q = { p with npred := p.npred + 1 }) ∨
    (∃ pc a k g p, i = .update pc a k g ∧ s.lc = .ready p ∧
      ¬ (mispredicted pc k g = true ∧ p.nmisp.toNat = statMax) ∧ q = p.resolved pc a k g) := by
  cases i with
  | init cap hw tw ifs hs ts sm =>
    obtain ⟨-, rfl⟩ | ⟨-, -, -, rfl⟩ | ⟨m, rfl, h0, ha, rfl⟩ | ⟨-, -, -, -, rfl⟩ := execInit_cases h
    · exact .inl hq
    · exact .inl hq
    · obtain rfl := Lifecycle.ready.inj hq
      exact .inr (.inl ⟨_, Configuration.legal_of_admits h0 ha, rfl, rfl⟩)
    · cases hq
  | predict pc =>
    obtain ⟨-, rfl⟩ | ⟨p, hp, ⟨-, rfl⟩ | ⟨-, -, rfl⟩ | ⟨-, hn, rfl⟩⟩ := execPredict_cases h
    · exact .inl hq
    · exact .inl hq
    · exact .inl hq
    · obtain rfl := Lifecycle.ready.inj hq
      exact .inr (.inr (.inl ⟨pc, p, rfl, hp, hn, rfl⟩))
  | update pc a k g =>
    obtain ⟨-, rfl⟩ | ⟨p, hp, ⟨-, rfl⟩ | ⟨-, -, rfl⟩ | ⟨-, hn, rfl⟩⟩ := execUpdate_cases h
    · exact .inl hq
    · exact .inl hq
    · exact .inl hq
    · obtain rfl := Lifecycle.ready.inj hq
      exact .inr (.inr (.inr ⟨pc, a, k, g, p, rfl, hp, hn, rfl⟩))
  | getstats =>
    obtain ⟨-, rfl⟩ | ⟨p, -, ⟨-, rfl⟩ | ⟨-, rfl⟩⟩ := execGetstats_cases h
    · exact .inl hq
    · exact .inl hq
    · cases hq

/-! ## What UPDATE does to the registers that are no storage -/

@[simp] theorem Predictor.resolved_cfg (p : Predictor) (pc a : Word) (t : Bool) (g : Word) :
    (p.resolved pc a t g).cfg = p.cfg := by
  cases h : (p.lookup pc).counter with
  | none => simp [Predictor.resolved_miss h]
  | some j => simp [Predictor.resolved_hit h]

@[simp] theorem Predictor.resolved_npred (p : Predictor) (pc a : Word) (t : Bool) (g : Word) :
    (p.resolved pc a t g).npred = p.npred := by
  cases h : (p.lookup pc).counter with
  | none => simp [Predictor.resolved_miss h]
  | some j => simp [Predictor.resolved_hit h]

theorem Predictor.resolved_nmisp (p : Predictor) (pc a : Word) (t : Bool) (g : Word) :
    (p.resolved pc a t g).nmisp = if mispredicted pc t g then p.nmisp + 1 else p.nmisp := by
  rw [← Predictor.countMispredict_nmisp]
  cases h : (p.lookup pc).counter with
  | none => simp [Predictor.resolved_miss h]
  | some j => simp [Predictor.resolved_hit h]

/-- Below the bound of R91 a count does not wrap. -/
theorem toNat_succ_of_ne_statMax {n : Stat} (h : n.toNat ≠ statMax) : (n + 1).toNat = n.toNat + 1 := by
  have hlt := n.isLt
  simp only [statMax, Config.statWidth] at h
  exact BitVec.toNat_add_of_lt (y := 1) (show n.toNat + 1 < 2 ^ 32 by omega)

/-! ## The invariant of a slot -/

theorem Slot.fits_cleared (c : Configuration) : Slot.cleared.Fits c where
  tag_lt := Nat.two_pow_pos _
  lh_lt := Nat.two_pow_pos _
  invalid := fun _ => rfl
  no_lh := fun _ => rfl

/-- For a valid slot only the widths are at stake: R29's clause about an invalid slot says nothing of it. -/
theorem Slot.fits_of_valid {c : Configuration} {sl : Slot} (hv : sl.v = true) (htag : sl.tag < 2 ^ c.tw.toNat)
    (hlh : sl.lh < 2 ^ c.hw.toNat) (hno : c.hs = .global → sl.lh = 0) : sl.Fits c where
  tag_lt := htag
  lh_lt := hlh
  invalid := fun hf => absurd (hf.symm.trans hv) Bool.false_ne_true
  no_lh := hno

theorem Slot.Fits.withTarget {c : Configuration} {sl : Slot} (h : sl.Fits c) (hv : sl.v = true) (x : Target) :
    ({ sl with tgt := x } : Slot).Fits c :=
  Slot.fits_of_valid hv h.tag_lt h.lh_lt h.no_lh

theorem Slot.Fits.withHistory {c : Configuration} {sl : Slot} (h : sl.Fits c) (hv : sl.v = true)
    (hs : c.hs = .perSlot) {n : Nat} (hn : n < 2 ^ c.hw.toNat) : ({ sl with lh := n } : Slot).Fits c :=
  Slot.fits_of_valid hv h.tag_lt hn fun hg => nomatch hs.symm.trans hg

/-! ## The invariant through the parts of a command -/

theorem Predictor.fresh_inv {l : Limits} {c : Configuration} (h : c.Legal l) : (Predictor.fresh c).Inv l where
  legal := h
  btb_wf := Cells.wf_nil _ _
  fsm_wf := Cells.wf_nil _ _
  slots := fun _ => Slot.fits_cleared c
  ghr_lt := Nat.two_pow_pos _
  no_ghr := fun _ => rfl

section
variable {l : Limits} {p : Predictor} (h : p.Inv l)
include h

/-- The invariant says nothing of `NPRED` and `NMISP` (R27). -/
theorem Predictor.Inv.withCounts (n m : Stat) : ({ p with npred := n, nmisp := m } : Predictor).Inv l where
  legal := h.legal
  btb_wf := h.btb_wf
  fsm_wf := h.fsm_wf
  slots := h.slots
  ghr_lt := h.ghr_lt
  no_ghr := h.no_ghr

theorem Predictor.Inv.setSlot {i : Nat} (hi : i < p.cfg.cap.toNat) {sl : Slot} (hsl : sl.Fits p.cfg) :
    (p.setSlot i sl).Inv l where
  legal := h.legal
  btb_wf := Predictor.setSlot_btb_wf h.btb_wf hi sl
  fsm_wf := h.fsm_wf
  slots := fun k => by
    rw [Predictor.slot_setSlot]
    split
    · exact hsl
    · exact h.slots k
  ghr_lt := h.ghr_lt
  no_ghr := h.no_ghr

theorem Predictor.Inv.setCounter {j : Nat} (hj : j < p.cfg.counterCount) (c : FsmState) : (p.setCounter j c).Inv l where
  legal := h.legal
  btb_wf := h.btb_wf
  fsm_wf := Predictor.setCounter_fsm_wf h.fsm_wf hj c
  slots := h.slots
  ghr_lt := h.ghr_lt
  no_ghr := h.no_ghr

theorem Predictor.Inv.resetTable (i : Nat) : (p.resetTable i).Inv l where
  legal := h.legal
  btb_wf := h.btb_wf
  fsm_wf := Predictor.resetTable_fsm_wf h.fsm_wf i
  slots := h.slots
  ghr_lt := h.ghr_lt
  no_ghr := h.no_ghr

theorem Predictor.Inv.countMispredict (m : Bool) : (p.countMispredict m).Inv l := by
  cases m with
  | false => exact h
  | true => exact h.withCounts p.npred (p.nmisp + 1)

/-- A claimed slot fits: its tag is the lookup's, and its history is 0 or, where it does not exist, what it was. -/
theorem Predictor.Inv.allocate {i tag : Nat} (hi : i < p.cfg.cap.toNat) (htag : tag < 2 ^ p.cfg.tw.toNat) (a : Word) :
    (p.allocate i tag a).Inv l := by
  have hset {lh : Nat} (hlh : lh < 2 ^ p.cfg.hw.toNat) (hno : p.cfg.hs = .global → lh = 0) :
      (p.setSlot i { v := true, tag := tag, tgt := targetField a, lh := lh }).Inv l :=
    h.setSlot hi (Slot.fits_of_valid rfl htag hlh hno)
  unfold Predictor.allocate
  cases hs : p.cfg.hs <;> cases p.cfg.ts
  · exact hset (h.slots i).lh_lt (h.slots i).no_lh
  · exact (hset (h.slots i).lh_lt (h.slots i).no_lh).resetTable i
  · exact hset (Nat.two_pow_pos _) fun _ => rfl
  · exact (hset (Nat.two_pow_pos _) fun _ => rfl).resetTable i

theorem Predictor.Inv.updateInPlace {i j : Nat} (hi : i < p.cfg.cap.toNat) (hj : j < p.cfg.counterCount)
    (hv : (p.slot i).v = true) (t : Bool) (a : Word) : (p.updateInPlace i j t a).Inv l :=
  (h.setCounter hj _).setSlot hi ((h.slots i).withTarget hv _)

theorem Predictor.Inv.shiftHistory {i : Nat} (hi : i < p.cfg.cap.toNat) (hv : (p.slot i).v = true) (t : Bool) :
    (p.shiftHistory i t).Inv l := by
  unfold Predictor.shiftHistory
  cases hs : p.cfg.hs with
  | global =>
    exact { h with
      ghr_lt := shifted_lt p.cfg p.ghr t
      no_ghr := fun hl => by simp [hs] at hl }
  | perSlot => exact h.setSlot hi ((h.slots i).withHistory hv hs (shifted_lt _ _ t))

/-! ### The lookup stays in range (R34, R67, R71) -/

theorem Predictor.Inv.index_lt (pc : Word) : p.cfg.index pc < p.cfg.cap.toNat :=
  Machine.index_lt p.cfg pc h.legal.cap_pos

theorem Predictor.Inv.history_lt (i : Nat) : p.history i < 2 ^ p.cfg.hw.toNat := by
  unfold Predictor.history
  cases p.cfg.hs with
  | global => exact h.ghr_lt
  | perSlot => exact (h.slots i).lh_lt

end

/-- The counter address of a slot in range and a history value in range lies in the FSM storage (R20, R34). -/
theorem fsmAddr_lt_counterCount (c : Configuration) {i hv : Nat} (hi : i < c.cap.toNat) (hhv : hv < c.tableSize) :
    c.fsmAddr i hv < c.counterCount := by
  unfold Configuration.fsmAddr Configuration.counterCount
  cases c.ts with
  | global => exact hhv
  | perSlot =>
    calc i * c.tableSize + hv < (i + 1) * c.tableSize := by rw [Nat.succ_mul]; omega
      _ ≤ c.cap.toNat * c.tableSize := Nat.mul_le_mul_right _ hi

theorem Predictor.Inv.lookup_counter_lt {l : Limits} {p : Predictor} (h : p.Inv l) {pc : Word} {j : Nat}
    (hj : (p.lookup pc).counter = some j) : j < p.cfg.counterCount := by
  obtain ⟨-, rfl⟩ := Predictor.lookup_hit hj
  exact fsmAddr_lt_counterCount p.cfg (h.index_lt pc) (historyValue_lt p pc (h.history_lt _))

theorem Predictor.slot_valid_of_hit {p : Predictor} {pc : Word} (h : p.hit pc = true) :
    (p.slot (p.cfg.index pc)).v = true :=
  (Bool.and_eq_true_iff.1 h).1

/-- Either path of UPDATE leaves the slot it looked up valid, so the history step may write its `LH`. -/
theorem Predictor.Inv.resolved {l : Limits} {p : Predictor} (h : p.Inv l) (pc a : Word) (t : Bool) (g : Word) :
    (p.resolved pc a t g).Inv l := by
  have hi := h.index_lt pc
  have hq := h.countMispredict (mispredicted pc t g)
  cases hl : (p.lookup pc).counter with
  | none =>
    rw [Predictor.resolved_miss hl]
    refine Predictor.Inv.shiftHistory (hq.allocate ?_ ?_ a) ?_ ?_ t
    · simpa using hi
    · simpa using tag_lt p.cfg pc
    · simpa using hi
    · simp [Predictor.allocate_slot]
  | some j =>
    have hv := Predictor.slot_valid_of_hit (Predictor.lookup_hit hl).1
    rw [Predictor.resolved_hit hl]
    refine Predictor.Inv.shiftHistory (hq.updateInPlace ?_ ?_ ?_ t a) ?_ ?_ t
    · simpa using hi
    · simpa using h.lookup_counter_lt hl
    · simpa using hv
    · simpa using hi
    · simpa [Predictor.updateInPlace_slot] using hv

/-! ## The invariant of the machine -/

/-- The invariant reads only the limits and the lifecycle. -/
theorem State.Inv.congr {s t : State} (h : s.Inv) (hl : t.limits = s.limits) (hlc : t.lc = s.lc) : t.Inv where
  room := hl ▸ h.room
  ready := fun p hp => hl ▸ h.ready p (hlc ▸ hp)

theorem exec_keeps_inv {i : Instr} {s t : State} (hs : s.Inv) (h : exec i s = .next t) : t.Inv where
  room := exec_limits h ▸ hs.room
  ready := fun q hq => by
    rw [exec_limits h]
    obtain hsame | ⟨c, hc, rfl, -⟩ | ⟨pc, p, -, hp, -, rfl⟩ | ⟨pc, a, k, g, p, -, hp, -, rfl⟩ := exec_ready_cases h hq
    · exact hs.ready q hsame
    · exact Predictor.fresh_inv hc
    · exact (hs.ready p hp).withCounts (p.npred + 1) p.nmisp
    · exact (hs.ready p hp).resolved pc a k g

/-- Settles O47: a step that runs no command changes neither limits nor `LC`, and a command keeps the invariant. -/
theorem stepKeepsTheInvariant : Obligations.StepKeepsTheInvariant := by
  intro s t hs h
  obtain ⟨-, rfl⟩ | ⟨-, rest, -, rfl⟩ | ⟨i, rest, -, hexec⟩ := step_cases h
  · exact hs
  · exact hs.congr rfl rfl
  · exact exec_keeps_inv (s := { s with pending := rest }) (hs.congr rfl rfl) hexec

/-- Settles O46: at power-on there is no predictor, and MAX_BTB_CAPACITY is at least 1 (R11). -/
theorem resetMeetsTheInvariants : Obligations.ResetMeetsTheInvariants := by
  refine ⟨⟨?_, ?_⟩, ?_, rfl⟩
  · exact Nat.le_add_left 1 Config.spareBtbCapacity
  · exact fun _ hp => nomatch hp
  · exact fun _ hp => nomatch hp

/-! ## The configuration and the counts -/

/-- Settles O17: of what can leave a predictor, all but INIT start from one, and PREDICT and UPDATE keep `cfg`. -/
theorem onlyInitWritesTheConfiguration : Obligations.OnlyInitWritesTheConfiguration := by
  intro i s t q hi h hq
  obtain hs | ⟨c, -, -, rfl⟩ | ⟨pc, p, -, hp, -, rfl⟩ | ⟨pc, a, k, g, p, -, hp, -, rfl⟩ := exec_ready_cases h hq
  · exact ⟨q, hs, rfl⟩
  · exact absurd rfl (hi _ _ _ _ _ _ _)
  · exact ⟨p, hp, rfl⟩
  · exact ⟨p, hp, Predictor.resolved_cfg p pc a k g⟩

/-- Settles O44: a count moves only where R91 does not refuse the command, so it does not wrap. -/
theorem countsOnlyGrow : Obligations.CountsOnlyGrow := by
  intro i s t p q hi hp h hq
  obtain hs | ⟨c, -, -, rfl⟩ | ⟨pc, p', rfl, hp', hn, rfl⟩ | ⟨pc, a, k, g, p', rfl, hp', hn, rfl⟩ :=
    exec_ready_cases h hq
  · obtain rfl := Lifecycle.ready.inj (hp.symm.trans hs)
    exact ⟨.inl rfl, .inl rfl⟩
  · exact absurd rfl (hi _ _ _ _ _ _ _)
  · obtain rfl := Lifecycle.ready.inj (hp.symm.trans hp')
    exact ⟨.inr ⟨toNat_succ_of_ne_statMax hn, pc, rfl⟩, .inl rfl⟩
  · obtain rfl := Lifecycle.ready.inj (hp.symm.trans hp')
    refine ⟨.inl (by rw [Predictor.resolved_npred]), ?_⟩
    rw [Predictor.resolved_nmisp]
    split
    · next hm => exact .inr ⟨toNat_succ_of_ne_statMax fun h => hn ⟨hm, h⟩, pc, a, k, g, rfl⟩
    · exact .inl rfl

/-! ## Power-on, INIT's values and the counter codes -/

/-- Settles O12: `LC` is `Uninit` at power-on, and only `Ready` carries a predictor. -/
theorem powerOnHoldsNoPredictor : Obligations.PowerOnHoldsNoPredictor :=
  ⟨rfl, fun _ h => nomatch h⟩

/-- The equation of INIT when neither R89 nor R84 turns it away. -/
theorem execInit_of_legal {s : State} {c : Configuration} (h : c.Legal s.limits) :
    execInit c.cap c.hw c.tw c.ifs c.hs c.ts (.mode c.sm) s =
      .next ((s.setLc (.ready (Predictor.fresh c))).respond (.init .ok)) := by
  have h0 : c.cap ≠ 0 := fun h0 => by simpa [h0] using h.cap_pos
  have ha : s.limits.admits c.cap c.hw c.tw = true := Limits.admits_iff.2 ⟨h.cap_le, h.hw_le, h.tw_le⟩
  simp only [execInit, if_neg h0, if_pos ha]

/-- Settles O13, by the values of a fresh predictor. -/
theorem initConfiguresAndClears : Obligations.InitConfiguresAndClears := by
  intro s cap hw tw ifs hs ts m hpos hcap hhw htw
  have hexec := execInit_of_legal (c := ⟨cap, hw, tw, ifs, hs, ts, m⟩) ⟨hpos, hcap, hhw, htw⟩
  exact ⟨_, hexec, rfl, fun _ _ => ⟨rfl, rfl, rfl, rfl⟩, fun _ _ => rfl, rfl, rfl, rfl⟩

/-- Settles O34, on each of the four codes. -/
theorem countersSaturate : Obligations.CountersSaturate := by
  refine ⟨rfl, rfl, rfl, rfl, fun c => ?_⟩
  cases c <;> decide

end Sys2Proof.Machine
end

section
/-! PROOFS. The statements of 20_memory.md: the canonical form of a storage (R33), the counter address (R34), and what a
prediction reads and an UPDATE leaves of the other slots (R38). -/

namespace Sys2Proof.Machine

/-! ## The canonical form (R33, log 10) -/

/-- In a canonical storage an entry is listed exactly when its number reads as its value and that is not `d`. -/
theorem Cells.Wf.mem_iff {α : Type} {d : α} {n : Nat} {cs : Cells α} (h : Cells.Wf d n cs) (i : Nat) (x : α) :
    (i, x) ∈ cs ↔ Cells.read d cs i = x ∧ x ≠ d := by
  induction cs with
  | nil => simpa using Eq.symm
  | cons e cs ih =>
    obtain ⟨k, y⟩ := e
    obtain ⟨hrise, hentry⟩ := h
    obtain ⟨hk, hrise⟩ := List.pairwise_cons.1 hrise
    obtain ⟨⟨-, hy⟩, hentry⟩ := List.forall_mem_cons.1 hentry
    rw [List.mem_cons, Cells.read_cons, Prod.mk.injEq]
    split
    · next hki =>
      subst hki
      have hnot : (k, x) ∉ cs := fun hmem => Nat.lt_irrefl k (hk _ hmem)
      constructor
      · rintro (⟨-, rfl⟩ | hmem)
        · exact ⟨rfl, hy⟩
        · exact absurd hmem hnot
      · exact fun ⟨hyx, _⟩ => .inl ⟨rfl, hyx.symm⟩
    · next hki =>
      rw [← ih ⟨hrise, hentry⟩]
      exact or_iff_right fun ⟨hik, _⟩ => hki hik.symm

/-- Reads fix the members of a canonical storage, and rising numbers fix their order. -/
theorem Cells.Wf.ext {α : Type} {d : α} {n : Nat} {a b : Cells α} (ha : Cells.Wf d n a) (hb : Cells.Wf d n b)
    (h : ∀ i, Cells.read d a i = Cells.read d b i) : a = b := by
  have : Std.Asymm fun e f : Nat × α => e.1 < f.1 := ⟨fun _ _ => Nat.lt_asymm⟩
  exact ha.1.eq_of_mem_iff hb.1 fun (i, x) => by rw [ha.mem_iff, hb.mem_iff, h i]

/-- Settles O45, for the counters and for the slots alike. -/
theorem storageIsDeterminedByItsReads : Obligations.StorageIsDeterminedByItsReads :=
  fun _ _ _ => ⟨fun _ _ => Cells.Wf.ext, fun _ _ => Cells.Wf.ext⟩

/-! ## The counter address (R34) -/

theorem fsmAddr_global {c : Configuration} (h : c.ts = .global) (i hv : Nat) : c.fsmAddr i hv = hv := by
  simp only [Configuration.fsmAddr, h]

theorem fsmAddr_perSlot {c : Configuration} (h : c.ts = .perSlot) (i hv : Nat) :
    c.fsmAddr i hv = i * c.tableSize + hv := by
  simp only [Configuration.fsmAddr, h]

theorem counterCount_perSlot {c : Configuration} (h : c.ts = .perSlot) :
    c.counterCount = c.cap.toNat * c.tableSize := by
  simp only [Configuration.counterCount, h]

/-- Settles O25: the history value lies below the table size, so adding it to the slot's base sets bits that are free. -/
theorem counterAddressIsInRange : Obligations.CounterAddressIsInRange := by
  intro c i hv hi hhv
  refine ⟨fun hts => ?_, fun hts => ?_⟩
  · rw [fsmAddr_global hts]
    exact ⟨rfl, hhv⟩
  · have haddr : c.fsmAddr i hv = i * 2 ^ c.hw.toNat + hv := fsmAddr_perSlot hts i hv
    refine ⟨haddr, ?_, ?_⟩
    · rw [haddr, ← Nat.shiftLeft_eq, Nat.shiftLeft_add_eq_or_of_lt hhv]
    · have hlt := fsmAddr_lt_counterCount c hi hhv
      rwa [counterCount_perSlot hts] at hlt

/-! ## What a prediction reads (R38, R71, R72) -/

section
variable {p q : Predictor} {pc : Word} (hcfg : q.cfg = p.cfg)
  (hslot : q.slot (p.cfg.index pc) = p.slot (p.cfg.index pc))
include hcfg hslot

/-- The selected history is the slot's own under HS = Local and GHR under HS = Global (R64). -/
theorem Predictor.history_congr (hghr : p.cfg.hs = .global → q.ghr = p.ghr) :
    q.history (p.cfg.index pc) = p.history (p.cfg.index pc) := by
  unfold Predictor.history
  rw [hcfg]
  cases hs : p.cfg.hs with
  | global => exact hghr hs
  | perSlot => exact congrArg Slot.lh hslot

/-- The hit test reads the indexed slot (R63). -/
theorem Predictor.hit_congr : q.hit pc = p.hit pc := by
  unfold Predictor.hit
  rw [hcfg, hslot]

/-- A lookup reads the indexed slot and, under HS = Global, GHR. -/
theorem Predictor.lookup_congr (hghr : p.cfg.hs = .global → q.ghr = p.ghr) : q.lookup pc = p.lookup pc := by
  have hvalue : q.historyValue pc = p.historyValue pc := by
    unfold Predictor.historyValue
    rw [hcfg, Predictor.history_congr hcfg hslot hghr]
  unfold Predictor.lookup
  rw [Predictor.hit_congr hcfg hslot, hvalue, hcfg]

end

/-- Beyond its lookup a prediction reads the indexed slot's target and, on a hit, the one counter found (R72). -/
theorem Predictor.prediction_congr {p q : Predictor} {pc : Word}
    (hslot : q.slot (p.cfg.index pc) = p.slot (p.cfg.index pc)) (hlookup : q.lookup pc = p.lookup pc)
    (hcounter : ∀ j, (p.lookup pc).counter = some j → q.counter j = p.counter j) :
    q.prediction pc = p.prediction pc := by
  unfold Predictor.prediction
  rw [hlookup, Predictor.lookup_idx, hslot]
  cases hj : (p.lookup pc).counter with
  | none => rfl
  | some j => simp only [hcounter j hj]

/-- Settles O33: the invariant keeps the history value below 2^HW, so a hit's counter is one of the table agreed on. -/
theorem predictionReadsOneSlot : Obligations.PredictionReadsOneSlot := by
  intro l p q pc hinv hcfg hslot hghr htable
  have hlookup := Predictor.lookup_congr hcfg hslot hghr
  refine ⟨hlookup, Predictor.prediction_congr hslot hlookup fun j hj => ?_⟩
  obtain ⟨-, rfl⟩ := Predictor.lookup_hit hj
  exact htable _ (historyValue_lt p pc (hinv.history_lt _))

/-! ## What an UPDATE leaves of the other slots (R34, R38) -/

theorem Predictor.resolved_slot_of_ne (p : Predictor) {pc : Word} {i : Nat} (hi : p.cfg.index pc ≠ i) (a : Word)
    (t : Bool) (g : Word) : (p.resolved pc a t g).slot i = p.slot i := by
  cases h : (p.lookup pc).counter with
  | none => simp [Predictor.resolved_miss h, Predictor.shiftHistory_slot, Predictor.allocate_slot, hi]
  | some j => simp [Predictor.resolved_hit h, Predictor.shiftHistory_slot, Predictor.updateInPlace_slot, hi]

/-- Slot `i`'s own table as a range of counter numbers. -/
theorem fsmAddr_perSlot_range {c : Configuration} (hts : c.ts = .perSlot) {i k : Nat}
    (h : i * c.tableSize ≤ k ∧ k < i * c.tableSize + c.tableSize) :
    ∃ hv, hv < c.tableSize ∧ c.fsmAddr i hv = k := by
  refine ⟨k - i * c.tableSize, by omega, ?_⟩
  rw [fsmAddr_perSlot hts]
  omega

/-- Under TS = Local an UPDATE writes, by training or by a reset, counters of the table of the slot it looks up only. -/
theorem Predictor.Inv.resolved_counter_of_ne {l : Limits} {p : Predictor} (h : p.Inv l) (hts : p.cfg.ts = .perSlot)
    {pc : Word} {i hv : Nat} (hi : p.cfg.index pc ≠ i) (hhv : hv < p.cfg.tableSize) (a : Word) (t : Bool) (g : Word) :
    (p.resolved pc a t g).counter (p.cfg.fsmAddr i hv) = p.counter (p.cfg.fsmAddr i hv) := by
  cases hl : (p.lookup pc).counter with
  | none =>
    have hout : ¬ (p.cfg.index pc * p.cfg.tableSize ≤ p.cfg.fsmAddr i hv ∧
        p.cfg.fsmAddr i hv < p.cfg.index pc * p.cfg.tableSize + p.cfg.tableSize) := fun hin => by
      obtain ⟨hv', hhv', heq⟩ := fsmAddr_perSlot_range hts hin
      exact fsmAddr_perSlot_ne p.cfg hts hi hhv' hhv heq
    simp [Predictor.resolved_miss hl, Predictor.allocate_counter, hout]
  | some j =>
    obtain ⟨-, rfl⟩ := Predictor.lookup_hit hl
    have hne := fsmAddr_perSlot_ne p.cfg hts hi (historyValue_lt p pc (h.history_lt _)) hhv
    simp [Predictor.resolved_hit hl, Predictor.updateInPlace_counter, hne]

/-- Settles O43: an UPDATE leaves the other slot and its table as they were, and those are all a prediction there reads. -/
theorem localSlotsAreIsolated : Obligations.LocalSlotsAreIsolated := by
  intro s t p q pc pc' a g k hs hp hhs hts hidx hexec hq
  have hinv := hs.ready p hp
  obtain hsame | ⟨_, -, -, hi⟩ | ⟨_, _, hi, -⟩ | ⟨_, _, _, _, p', hi, hp', -, rfl⟩ := exec_ready_cases hexec hq
  · obtain rfl := Lifecycle.ready.inj (hp.symm.trans hsame)
    exact ⟨rfl, rfl⟩
  · cases hi
  · cases hi
  · cases hi
    obtain rfl := Lifecycle.ready.inj (hp.symm.trans hp')
    have hne : p.cfg.index pc ≠ p.cfg.index pc' := by simpa only [Configuration.index, alignedAddress_eq] using hidx
    have hghr : p.cfg.hs = .global → (p.resolved pc a k g).ghr = p.ghr := fun hg => nomatch hhs.symm.trans hg
    exact (predictionReadsOneSlot s.limits p _ pc' hinv (p.resolved_cfg pc a k g) (p.resolved_slot_of_ne hne a k g) hghr
      fun hv hhv => hinv.resolved_counter_of_ne hts hne hhv a k g).symm

end Sys2Proof.Machine
end

section
/-! PROOFS. The statements of 30_encoding.md: the encoder and the decoder undo each other (R47 to R57), reserved words
are refused (R55), and every command responds once or is refused (R53, R86). -/

namespace Sys2Proof

/-! ## The command words as numbers (R48 to R51) -/

/-- Fields side by side are digits of one number. -/
theorem toNat_append_eq_add {m n : Nat} (x : BitVec m) (y : BitVec n) :
    (x ++ y).toNat = x.toNat * 2 ^ n + y.toNat := by
  rw [BitVec.toNat_append, ← Nat.shiftLeft_add_eq_or_of_lt y.isLt, Nat.shiftLeft_eq]

theorem initWord_toNat (ifs : FsmState) (hs ts : Scope) (sm : SharingField) :
    (initWord ifs hs ts sm).toNat =
      1 + 2 ^ 3 * ifs.code.toNat + 2 ^ 5 * hs.code.toNat + 2 ^ 6 * ts.code.toNat + 2 ^ 7 * sm.code.toNat := by
  have hzero : (0 : BitVec 23).toNat = 0 := rfl
  have hop : opInit.toNat = 1 := rfl
  simp only [initWord, toNat_append_eq_add, hzero, hop]
  omega

theorem extractLsb'_toNat_eq (w : Word) (k n : Nat) : (w.extractLsb' k n).toNat = w.toNat / 2 ^ k % 2 ^ n := by
  rw [BitVec.extractLsb'_toNat, Nat.shiftRight_eq_div_pow]

/-- Each field of INIT's command word reads back as what was written there, and the reserved bits as 0 (R48). -/
theorem initWord_fields (ifs : FsmState) (hs ts : Scope) (sm : SharingField) :
    opField (initWord ifs hs ts sm) = opInit ∧
    (initWord ifs hs ts sm).extractLsb' 3 2 = ifs.code ∧
    (initWord ifs hs ts sm).extractLsb' 5 1 = hs.code ∧
    (initWord ifs hs ts sm).extractLsb' 6 1 = ts.code ∧
    (initWord ifs hs ts sm).extractLsb' 7 2 = sm.code ∧
    (initWord ifs hs ts sm).extractLsb' 9 23 = 0 := by
  have hifs := ifs.code.isLt
  have hhs := hs.code.isLt
  have hts := ts.code.isLt
  have hsm := sm.code.isLt
  have hzero : (0 : BitVec 23).toNat = 0 := rfl
  rw [opField_eq_init]
  simp only [← BitVec.toNat_inj, extractLsb'_toNat_eq, initWord_toNat, hzero]
  omega

/-- INIT's command word is the only one with its fields: the fields cover all 32 bits. -/
theorem initWord_of_fields {w : Word} (hop : w.toNat % 8 = 1) (hhigh : w.toNat / 2 ^ 9 = 0) :
    initWord (FsmState.ofCode (w.extractLsb' 3 2)) (Scope.ofCode (w.extractLsb' 5 1))
      (Scope.ofCode (w.extractLsb' 6 1)) (SharingField.ofCode (w.extractLsb' 7 2)) = w := by
  apply BitVec.eq_of_toNat_eq
  simp only [initWord_toNat, FsmState.code_ofCode, Scope.code_ofCode, SharingField.code_ofCode, extractLsb'_toNat_eq]
  omega

theorem sharing_reserved_iff (w : Word) :
    SharingField.ofCode (w.extractLsb' 7 2) = .reserved ↔ w.toNat / 2 ^ 7 % 4 = 3 := by
  have hcode : ∀ c : BitVec 2, SharingField.ofCode c = .reserved ↔ c.toNat = 3 := by decide
  rw [hcode, extractLsb'_toNat_eq]
  rfl

theorem operandCount_eq (w : Word) :
    operandCount w =
      if w.toNat % 8 = 1 ∨ w.toNat % 8 = 3 then 3 else if w.toNat % 8 = 2 then 1 else 0 := by
  simp only [operandCount, opField_eq_init, opField_eq_predict, opField_eq_update]
  split_ifs <;> omega

/-! ## Decoding what the encoder writes -/

theorem decode_init (cap hw tw : Word) (ifs : FsmState) (hs ts : Scope) (m : SharingMode) (rest : List Word) :
    decode (initWord ifs hs ts (.mode m) :: cap :: hw :: tw :: rest) =
      .command (.init cap hw tw ifs hs ts (.mode m)) rest := by
  obtain ⟨hop, hifs, hhs, hts, hsm, hhigh⟩ := initWord_fields ifs hs ts (.mode m)
  simp [decode, operandCount, decodeCommand, hop, hifs, hhs, hts, hsm, hhigh]

theorem decode_init_reserved (cap hw tw : Word) (ifs : FsmState) (hs ts : Scope) (rest : List Word) :
    decode (initWord ifs hs ts .reserved :: cap :: hw :: tw :: rest) = .rejected .reservedSharing rest := by
  obtain ⟨hop, -, -, -, hsm, hhigh⟩ := initWord_fields ifs hs ts .reserved
  simp [decode, operandCount, decodeCommand, hop, hsm, hhigh]

theorem decode_predict (pc : Word) (rest : List Word) :
    decode (predictWord :: pc :: rest) = .command (.predict pc) rest := rfl

theorem decode_update (pc atgt : Word) (taken : Bool) (ptgt : Word) (rest : List Word) :
    decode (updateWord taken :: pc :: atgt :: ptgt :: rest) = .command (.update pc atgt taken ptgt) rest := by
  cases taken <;> rfl

theorem decode_getstats (rest : List Word) : decode (getstatsWord :: rest) = .command .getstats rest := rfl

theorem decode_encode_append {i : Instr} (h : i.wellFormed = true) (rest : List Word) :
    decode (encode i ++ rest) = .command i rest := by
  cases i with
  | init cap hw tw ifs hs ts sm =>
    cases sm with
    | mode m => exact decode_init cap hw tw ifs hs ts m rest
    | reserved => cases h
  | predict pc => exact decode_predict pc rest
  | update pc atgt taken ptgt => exact decode_update pc atgt taken ptgt rest
  | getstats => exact decode_getstats rest

/-- Settles O3: the only ill-formed command is INIT with the reserved sharing code. -/
theorem decodeOfEncodeIsTheCommand : Obligations.DecodeOfEncodeIsTheCommand := by
  refine fun i rest => ⟨fun h => decode_encode_append h rest, fun h => ?_⟩
  cases i with
  | init cap hw tw ifs hs ts sm =>
    cases sm with
    | mode m => cases h
    | reserved => exact decode_init_reserved cap hw tw ifs hs ts rest
  | predict pc => cases h
  | update pc atgt taken ptgt => cases h
  | getstats => cases h

/-! ## Reserved words and commands (R54, R55) -/

/-- The words R55 reserves: by OP, by a reserved bit, or by SM = 3. -/
def ReservedWord (w : Word) : Prop :=
  (w.toNat % 8 = 0 ∨ w.toNat % 8 = 5 ∨ w.toNat % 8 = 6 ∨ w.toNat % 8 = 7) ∨
  (w.toNat % 8 = 1 ∧ w.toNat / 2 ^ 9 ≠ 0) ∨
  ((w.toNat % 8 = 2 ∨ w.toNat % 8 = 4) ∧ w.toNat / 2 ^ 3 ≠ 0) ∨
  (w.toNat % 8 = 3 ∧ w.toNat / 2 ^ 4 ≠ 0) ∨
  (w.toNat % 8 = 1 ∧ w.toNat / 2 ^ 7 % 4 = 3)

theorem decodeCommand_of_reserved {w0 : Word} (h : ReservedWord w0) (w1 w2 w3 : Word) :
    ∃ why, decodeCommand w0 w1 w2 w3 = .error why := by
  have hinit := highBits_eq_zero w0 9 23 (by decide)
  have hupdate := highBits_eq_zero w0 4 28 (by decide)
  have hshort := highBits_eq_zero w0 3 29 (by decide)
  unfold ReservedWord at h
  simp only [decodeCommand, opField_eq_init, opField_eq_predict, opField_eq_update, opField_eq_getstats, ne_eq,
    hinit, hupdate, hshort]
  -- For each OP the reserved bits are clear or set; clear, the word is reserved by INIT's SM = 3 only.
  split_ifs
  · have hsm := (sharing_reserved_iff w0).2 (by omega)
    exact ⟨_, by rw [hsm]⟩
  · exact ⟨_, rfl⟩
  · omega
  · exact ⟨_, rfl⟩
  · omega
  · exact ⟨_, rfl⟩
  · omega
  · exact ⟨_, rfl⟩
  · exact ⟨_, rfl⟩

/-- Every other word is a command's, with operand words of the number its OP asks for (R55). -/
theorem exists_encode_of_not_reserved {w0 : Word} (h : ¬ ReservedWord w0) {args : List Word}
    (hargs : args.length = operandCount w0) : ∃ i : Instr, i.wellFormed = true ∧ encode i = w0 :: args := by
  rw [operandCount_eq] at hargs
  unfold ReservedWord at h
  have hop : w0.toNat % 8 = 1 ∨ w0.toNat = 2 ∨ (w0.toNat = 3 ∨ w0.toNat = 11) ∨ w0.toNat = 4 := by omega
  obtain hop | hval | hval | hval := hop
  · rw [if_pos (.inl hop)] at hargs
    obtain ⟨cap, hw, tw, rfl⟩ := List.length_eq_three.1 hargs
    have hword := initWord_of_fields hop (by omega)
    have hnot := mt (sharing_reserved_iff w0).1 (by omega)
    cases hsm : SharingField.ofCode (w0.extractLsb' 7 2) with
    | mode m => exact ⟨.init cap hw tw _ _ _ (.mode m), rfl, by rw [encode, ← hsm, hword]⟩
    | reserved => exact absurd hsm hnot
  · obtain rfl : w0 = predictWord := BitVec.eq_of_toNat_eq hval
    obtain ⟨pc, rfl⟩ := List.length_eq_one_iff.1 hargs
    exact ⟨.predict pc, rfl, rfl⟩
  · obtain ⟨taken, rfl⟩ : ∃ taken, w0 = updateWord taken :=
      hval.elim (fun h => ⟨false, BitVec.eq_of_toNat_eq h⟩) fun h => ⟨true, BitVec.eq_of_toNat_eq h⟩
    rw [if_pos (by omega)] at hargs
    obtain ⟨pc, atgt, ptgt, rfl⟩ := List.length_eq_three.1 hargs
    exact ⟨.update pc atgt taken ptgt, rfl, rfl⟩
  · obtain rfl : w0 = getstatsWord := BitVec.eq_of_toNat_eq hval
    obtain rfl := List.length_eq_zero_iff.1 hargs
    exact ⟨.getstats, rfl, rfl⟩

/-- A word the decoder has taken for a command came with its operand words and is not reserved. -/
theorem decode_command_cases {ws : List Word} {i : Instr} {rest : List Word} (h : decode ws = .command i rest) :
    ∃ w0 args, ws = w0 :: (args ++ rest) ∧ args.length = operandCount w0 ∧ ¬ ReservedWord w0 := by
  cases ws with
  | nil => cases h
  | cons w0 args =>
    simp only [decode] at h
    split at h
    · cases h
    · next hlen =>
      split at h
      · next i' hok =>
        obtain ⟨-, rfl⟩ := Decoded.command.inj h
        refine ⟨w0, args.take (operandCount w0), by simp, by simp; omega, fun hres => ?_⟩
        obtain ⟨why, herr⟩ := decodeCommand_of_reserved hres (args.getD 0 0) (args.getD 1 0) (args.getD 2 0)
        cases hok.symm.trans herr
      · cases h

theorem decode_of_reserved {w0 : Word} (h : ReservedWord w0) {args : List Word}
    (hargs : args.length = operandCount w0) (rest : List Word) :
    ∃ why, decode (w0 :: (args ++ rest)) = .rejected why rest := by
  obtain ⟨why, herr⟩ := decodeCommand_of_reserved h
    ((args ++ rest).getD 0 0) ((args ++ rest).getD 1 0) ((args ++ rest).getD 2 0)
  have hwhole : ¬ (args ++ rest).length < operandCount w0 := by
    rw [List.length_append]
    omega
  exact ⟨why, by simp only [decode, if_neg hwhole, herr, List.drop_left' hargs]⟩

/-- Settles O4: the decoded word with its operand words is some command's, and decoding that command gives it back. -/
theorem decodedWordsAreTheCommandsOwn : Obligations.DecodedWordsAreTheCommandsOwn := by
  intro ws i rest h
  obtain ⟨w0, args, rfl, hargs, hres⟩ := decode_command_cases h
  obtain ⟨i', hwf, henc⟩ := exists_encode_of_not_reserved hres hargs
  have hdec : decode (w0 :: (args ++ rest)) = .command i' rest := by
    simpa [henc] using decode_encode_append hwf rest
  obtain ⟨rfl, -⟩ := Decoded.command.inj (h.symm.trans hdec)
  exact ⟨hwf, by simp [henc]⟩

/-! ## Words as R57 and the test vectors write them -/

/-- Fields side by side are the fields shifted into place and joined. -/
theorem initWord_eq_or (ifs : FsmState) (hs ts : Scope) (sm : SharingField) :
    initWord ifs hs ts sm =
      0x001 ||| (ifs.code.setWidth 32 <<< 3) ||| (hs.code.setWidth 32 <<< 5) ||| (ts.code.setWidth 32 <<< 6) |||
        (sm.code.setWidth 32 <<< 7) := by
  have hzero : (0 : BitVec 23).setWidth 32 = 0 := rfl
  have hop : opInit.setWidth 32 = 1 := rfl
  rw [← BitVec.setWidth_eq (initWord ifs hs ts sm)]
  unfold initWord
  simp only [BitVec.setWidth_append_eq_shiftLeft_setWidth_or, BitVec.shiftLeft_or_distrib, ← BitVec.shiftLeft_add]
  simp only [hzero, hop, Nat.reduceAdd, Nat.cast_one]
  ac_rfl

/-- Settles O1. -/
theorem encodeWritesTheWordsOfEachForm : Obligations.EncodeWritesTheWordsOfEachForm := by
  refine ⟨fun cap hw tw ifs hs ts sm => ?_, rfl, fun _ => rfl, fun _ _ _ => rfl, fun _ _ _ => rfl, rfl⟩
  rw [encode, initWord_eq_or]

/-- Settles O2: each of E1 to E11 is evaluated. -/
theorem writtenOutWordsDecode : Obligations.WrittenOutWordsDecode := by
  unfold Obligations.WrittenOutWordsDecode
  decide

end Sys2Proof

namespace Sys2Proof.Machine

/-! ## Steps on reserved words and on table words (R54, R55) -/

theorem step_of_decode_rejected {s : State} {why : DecodeError} {rest : List Word}
    (h : decode s.pending = .rejected why rest) :
    step s = .next ({ s with pending := rest }.refuse .reservedEncoding) := by
  simp only [step, h]

/-- Settles O5: the decoder rejects the reserved words, and every other is a command's that the step runs. -/
theorem reservedEncodingsAreRefused : Obligations.ReservedEncodingsAreRefused := by
  intro s w0 args rest hpending hargs
  rw [← operandCount_eq] at hargs
  refine ⟨fun hres => ?_, fun hres => ?_⟩
  · obtain ⟨why, hdec⟩ := decode_of_reserved hres hargs rest
    exact step_of_decode_rejected (hpending ▸ hdec)
  · obtain ⟨i, hwf, henc⟩ := exists_encode_of_not_reserved hres hargs
    have hdec := decode_encode_append hwf rest
    rw [henc, List.cons_append, ← hpending] at hdec
    exact ⟨i, hwf, henc, step_of_decode_command hdec⟩

theorem encode_operandWords (i : Instr) : Laws.OperandWords.Statement i := by
  cases i with
  | init cap hw tw ifs hs ts sm => exact Laws.OperandWords.init cap hw tw ifs hs ts sm
  | predict pc => exact Laws.OperandWords.predict pc
  | update pc atgt taken ptgt => exact Laws.OperandWords.update pc atgt taken ptgt
  | getstats => exact Laws.OperandWords.getstats

theorem decodeTableWord_eq_some {nbits w : Nat} {i : Instr} (h : decodeTableWord nbits w = some i) :
    ∃ rest, decode (tableWords nbits w) = .command i rest := by
  unfold decodeTableWord at h
  split at h
  · next i' rest hdec => exact ⟨rest, Option.some.inj h ▸ hdec⟩
  · cases h
  · cases h

/-- Cutting a table row's words to the decoded command's length leaves that command's own words. -/
theorem tableCommand_of_decodeTableWord {nbits w : Nat} {i : Instr} (h : decodeTableWord nbits w = some i) :
    i.wellFormed = true ∧ tableCommand nbits w = encode i := by
  obtain ⟨rest, hdec⟩ := decodeTableWord_eq_some h
  obtain ⟨hwf, hwords⟩ := decodedWordsAreTheCommandsOwn _ i rest hdec
  obtain ⟨w0, args, henc, hlen⟩ := encode_operandWords i
  refine ⟨hwf, ?_⟩
  simp [tableCommand, hwords, henc, ← hlen, Nat.add_comm 1]

/-- Settles O8: the words put first are the command's own, so a step decodes it and leaves the words that waited. -/
theorem fetchedTableWordRuns : Obligations.FetchedTableWordRuns := by
  intro s nbits w i h
  obtain ⟨hwf, hwords⟩ := tableCommand_of_decodeTableWord h
  have hdec : decode (s.withFetchWord nbits w).pending = .command i s.pending := by
    rw [State.withFetchWord, hwords, decode_encode_append hwf]
  exact step_of_decode_command hdec

/-! ## Responses and refusals (R53, R86) -/

/-- The response is of the command's own kind (R53). -/
def Response.Answers (r : Response) : Instr → Prop
  | .init _ _ _ _ _ _ _ => ∃ status, r = .init status
  | .predict _ => ∃ taken target, r = .predict taken target
  | .update _ _ _ _ => r = .update
  | .getstats => ∃ n m b, r = .getstats n m b

/-- A command is refused, or sets `LC` and returns one response of its own kind. -/
theorem exec_refused_or_responded {i : Instr} {s t : State} (h : exec i s = .next t) :
    (∃ reason, t = s.refuse reason) ∨ ∃ lc r, r.Answers i ∧ t = (s.setLc lc).respond r := by
  cases i with
  | init cap hw tw ifs hs ts sm =>
    obtain ⟨-, ht⟩ | ⟨-, -, -, ht⟩ | ⟨m, -, -, -, ht⟩ | ⟨-, -, -, -, ht⟩ := execInit_cases h
    · exact .inl ⟨_, ht⟩
    · exact .inl ⟨_, ht⟩
    · exact .inr ⟨_, _, ⟨_, rfl⟩, ht⟩
    · exact .inr ⟨_, _, ⟨_, rfl⟩, ht⟩
  | predict pc =>
    obtain ⟨-, ht⟩ | ⟨p, -, ⟨-, ht⟩ | ⟨-, -, ht⟩ | ⟨-, -, ht⟩⟩ := execPredict_cases h
    · exact .inl ⟨_, ht⟩
    · exact .inl ⟨_, ht⟩
    · exact .inl ⟨_, ht⟩
    · exact .inr ⟨_, _, ⟨_, _, rfl⟩, ht⟩
  | update pc a k g =>
    obtain ⟨-, ht⟩ | ⟨p, -, ⟨-, ht⟩ | ⟨-, -, ht⟩ | ⟨-, -, ht⟩⟩ := execUpdate_cases h
    · exact .inl ⟨_, ht⟩
    · exact .inl ⟨_, ht⟩
    · exact .inl ⟨_, ht⟩
    · exact .inr ⟨_, _, rfl, ht⟩
  | getstats =>
    obtain ⟨-, ht⟩ | ⟨p, -, ⟨-, ht⟩ | ⟨-, ht⟩⟩ := execGetstats_cases h
    · exact .inl ⟨_, ht⟩
    · exact .inl ⟨_, ht⟩
    · exact .inr ⟨_, _, ⟨_, _, _, rfl⟩, ht⟩

theorem exec_next (i : Instr) (s : State) : ∃ t, exec i s = .next t := by
  cases i with
  | init cap hw tw ifs hs ts sm =>
    cases sm with
    | reserved => exact ⟨_, rfl⟩
    | mode m =>
      simp only [exec, execInit]
      split_ifs <;> exact ⟨_, rfl⟩
  | predict pc => exact ⟨_, rfl⟩
  | update pc a k g => exact ⟨_, rfl⟩
  | getstats => exact ⟨_, rfl⟩

/-- Settles O10: refusing writes only the mark, and setting `LC` and responding leave the mark alone. -/
theorem everyCommandRespondsOnceOrIsRefused : Obligations.EveryCommandRespondsOnceOrIsRefused := by
  intro i s
  obtain ⟨t, ht⟩ := exec_next i s
  refine ⟨t, ht, ?_⟩
  obtain ⟨reason, rfl⟩ | ⟨lc, r, hr, rfl⟩ := exec_refused_or_responded ht
  · exact ⟨rfl, rfl, .inl ⟨reason, rfl⟩⟩
  · refine ⟨rfl, rfl, .inr ⟨rfl, r, rfl, ?_⟩⟩
    cases i <;> exact hr

end Sys2Proof.Machine
end

section
/-! PROOFS. The statements of 40_init.md: after an INIT nothing from before it matters (R59). -/

namespace Sys2Proof.Machine

/-! ## Two machines that differ in their pasts only -/

/-- What decides how `s1` and `s2` go on is the same, and from `r1` and `r2` on they gave the same responses. Free are
the mark, which only `refuse` reads and only to write it, and the earlier responses `r1` and `r2`. -/
structure SameSince (r1 r2 : List Response) (s1 s2 : State) : Prop where
  limits : s1.limits = s2.limits
  lc : s1.lc = s2.lc
  pending : s1.pending = s2.pending
  responses : ∃ rs, s1.responses = r1 ++ rs ∧ s2.responses = r2 ++ rs

section
variable {r1 r2 : List Response} {s1 s2 : State}

theorem SameSince.refuse (h : SameSince r1 r2 s1 s2) (reason : RefusalReason) :
    SameSince r1 r2 (s1.refuse reason) (s2.refuse reason) :=
  ⟨h.limits, h.lc, h.pending, h.responses⟩

theorem SameSince.setLc (h : SameSince r1 r2 s1 s2) (lc : Lifecycle) : SameSince r1 r2 (s1.setLc lc) (s2.setLc lc) :=
  ⟨h.limits, rfl, h.pending, h.responses⟩

theorem SameSince.respond (h : SameSince r1 r2 s1 s2) (r : Response) :
    SameSince r1 r2 (s1.respond r) (s2.respond r) := by
  obtain ⟨rs, h1, h2⟩ := h.responses
  exact ⟨h.limits, h.lc, h.pending, rs ++ [r], by simp [h1], by simp [h2]⟩

theorem SameSince.withPending (h : SameSince r1 r2 s1 s2) (ws : List Word) :
    SameSince r1 r2 { s1 with pending := ws } { s2 with pending := ws } :=
  ⟨h.limits, h.lc, rfl, h.responses⟩

theorem SameSince.ifReady (h : SameSince r1 r2 s1 s2) {k1 k2 : Predictor → State}
    (hk : ∀ p, SameSince r1 r2 (k1 p) (k2 p)) : SameSince r1 r2 (s1.ifReady k1) (s2.ifReady k2) := by
  unfold State.ifReady
  rw [h.lc]
  cases s2.lc with
  | uninit => exact h.refuse .notReady
  | ready p => exact hk p
  | released => exact h.refuse .notReady

theorem SameSince.exec (h : SameSince r1 r2 s1 s2) (i : Instr) :
    ∃ t1 t2, exec i s1 = .next t1 ∧ exec i s2 = .next t2 ∧ SameSince r1 r2 t1 t2 := by
  cases i with
  | init cap hw tw ifs hs ts sm =>
    cases sm with
    | reserved => exact ⟨_, _, rfl, rfl, h.refuse .reservedEncoding⟩
    | mode m =>
      simp only [Machine.exec, execInit, h.limits]
      split_ifs
      · exact ⟨_, _, rfl, rfl, h.refuse .badConfig⟩
      · exact ⟨_, _, rfl, rfl, (h.setLc _).respond (.init .ok)⟩
      · exact ⟨_, _, rfl, rfl, (h.setLc .uninit).respond (.init .allocFail)⟩
  | predict pc =>
    refine ⟨_, _, rfl, rfl, h.ifReady fun p => ?_⟩
    split_ifs
    · exact h.refuse .misaligned
    · exact h.refuse .statOverflow
    · exact (h.setLc _).respond _
  | update pc a k g =>
    refine ⟨_, _, rfl, rfl, h.ifReady fun p => ?_⟩
    split_ifs
    · exact h.refuse .misaligned
    · exact h.refuse .statOverflow
    · exact (h.setLc _).respond .update
  | getstats =>
    refine ⟨_, _, rfl, rfl, h.ifReady fun p => ?_⟩
    split_ifs
    · exact h.refuse .statOverflow
    · exact (h.setLc .released).respond _

theorem SameSince.step (h : SameSince r1 r2 s1 s2) :
    ∃ t1 t2, step s1 = .next t1 ∧ step s2 = .next t2 ∧ SameSince r1 r2 t1 t2 := by
  unfold Machine.step
  rw [h.pending]
  cases decode s2.pending with
  | incomplete => exact ⟨s1, s2, rfl, rfl, h⟩
  | rejected why rest => exact ⟨_, _, rfl, rfl, (h.withPending rest).refuse .reservedEncoding⟩
  | command i rest => exact (h.withPending rest).exec i

theorem run_succ_of_step {s t : State} (h : step s = .next t) (n : Nat) :
    Sys2Proof.core.run (n + 1) s = Sys2Proof.core.run n t := by
  have hcore : Sys2Proof.core.step s = .next t := h
  simp only [Host.Core.run, hcore]

theorem SameSince.run (h : SameSince r1 r2 s1 s2) (n : Nat) :
    ∃ t1 t2, Sys2Proof.core.run n s1 = .next t1 ∧ Sys2Proof.core.run n s2 = .next t2 ∧ SameSince r1 r2 t1 t2 := by
  induction n generalizing s1 s2 with
  | zero => exact ⟨s1, s2, rfl, rfl, h⟩
  | succ n ih =>
    obtain ⟨t1, t2, h1, h2, ht⟩ := h.step
    rw [run_succ_of_step h1, run_succ_of_step h2]
    exact ih ht

end

/-! ## INIT -/

/-- An INIT that is not refused replaces `LC` without reading it (R58). -/
theorem exec_init_setLc {cap : Word} (hcap : cap ≠ 0) (hw tw : Word) (ifs : FsmState) (hs ts : Scope) (m : SharingMode)
    (s : State) (lc : Lifecycle) :
    exec (.init cap hw tw ifs hs ts (.mode m)) (s.setLc lc) = exec (.init cap hw tw ifs hs ts (.mode m)) s := by
  simp only [exec, execInit, if_neg hcap]
  rfl

/-- Settles O18: INIT does not read `LC`, so the two machines may be given one `LC` before it; from there they are in
`SameSince`, which every command and every step keeps. -/
theorem initForgetsThePast : Obligations.InitForgetsThePast := by
  intro s1 s2 t1 t2 cap hw tw ifs hs ts m hlimits hpending hpos h1 h2 n
  have hcap : cap ≠ 0 := fun h0 => by simp [h0] at hpos
  have hpast : SameSince s1.responses s2.responses (s1.setLc .uninit) (s2.setLc .uninit) :=
    ⟨hlimits, rfl, hpending, [], by simp, by simp⟩
  obtain ⟨u1, u2, hu1, hu2, hu⟩ := hpast.exec (.init cap hw tw ifs hs ts (.mode m))
  rw [exec_init_setLc hcap] at hu1 hu2
  obtain rfl := Host.Outcome.next.inj (hu1.symm.trans h1)
  obtain rfl := Host.Outcome.next.inj (hu2.symm.trans h2)
  obtain ⟨v1, v2, hv1, hv2, hv⟩ := hu.run n
  obtain ⟨rs, hrs1, hrs2⟩ := hv.responses
  exact ⟨v1, v2, rs, hv1, hv2, hv.lc, hv.pending, hrs1, hrs2⟩

end Sys2Proof.Machine
end

section
/-! PROOFS. The statements of 41_lookup.md: index, tag and sharing bits as fields of the pc (R61, R62, R65, R66), the
lookup (R71), and PREDICT, which answers from it (R69, R70, R72). -/

namespace Sys2Proof.Machine

/-! ## Fields of a number -/

/-- The `n` bits of `x` from bit `m` up. -/
theorem testBit_field (x m n b : Nat) : (x / 2 ^ m % 2 ^ n).testBit b = (decide (b < n) && x.testBit (b + m)) := by
  rw [Nat.testBit_mod_two_pow, Nat.testBit_div_two_pow]

/-- A field that ends below bit `k` is fixed by the low `k` bits. -/
theorem field_congr {x y k m n : Nat} (h : x % 2 ^ k = y % 2 ^ k) (hmn : m + n ≤ k) :
    x / 2 ^ m % 2 ^ n = y / 2 ^ m % 2 ^ n := by
  have hlow : x % 2 ^ (m + n) = y % 2 ^ (m + n) := Nat.ModEq.of_dvd (pow_dvd_pow 2 hmn) h
  rw [← Nat.mod_mul_right_div_self, ← Nat.mod_mul_right_div_self, ← pow_add, hlow]

/-! ## The index (R61) -/

theorem index_eq (c : Configuration) (pc : Word) : c.index pc = pc.toNat / 4 % c.cap.toNat := by
  rw [Configuration.index, alignedAddress_eq]

/-- IB is the only number that is the least exponent of R13's law. -/
theorem indexBits_of_least {c : Configuration} {ib : Nat} (h : ∀ k, c.cap.toNat ≤ 2 ^ k ↔ ib ≤ k) :
    c.indexBits = ib :=
  eq_of_forall_ge_iff fun k => (clogIsTheLeastExponent _ k).symm.trans (h k)

theorem indexBits_of_two_pow {c : Configuration} {k : Nat} (h : c.cap.toNat = 2 ^ k) : c.indexBits = k :=
  indexBits_of_least fun m => by rw [h, Nat.pow_le_pow_iff_right Nat.one_lt_two]

/-- Settles O22: modulo a power of two the index is a field of the pc. -/
theorem indexIsTheRemainder : Obligations.IndexIsTheRemainder := by
  refine fun c pc => ⟨fun hpos => ⟨index_eq c pc, index_lt c pc hpos⟩, fun k hk => ⟨indexBits_of_two_pow hk, ?_⟩,
    fun hone => ?_⟩
  · rw [index_eq, hk]
    exact testBit_field pc.toNat 2 k
  · rw [index_eq, hone, Nat.mod_one]

/-! ## The tag (R62) -/

theorem tag_eq (c : Configuration) (pc : Word) :
    c.tag pc = pc.toNat / 4 / 2 ^ c.indexBits % 2 ^ c.tw.toNat := by
  rw [Configuration.tag, and_mask, alignedAddress_eq, Nat.shiftRight_eq_div_pow]

theorem tag_testBit (c : Configuration) (pc : Word) (b : Nat) :
    (c.tag pc).testBit b = (decide (b < c.tw.toNat) && pc.toNat.testBit (b + c.indexBits + 2)) := by
  rw [tag_eq, testBit_field, show 4 = 2 ^ 2 from rfl, Nat.testBit_div_two_pow]

/-- Settles O23: the tag is a field of the aligned address, and a pc has no bit at 32 or above. -/
theorem tagIsTheBitsAboveTheIndex : Obligations.TagIsTheBitsAboveTheIndex := by
  intro c pc ib hib
  obtain rfl := indexBits_of_least hib
  refine ⟨tag_eq c pc, tag_testBit c pc, fun b hb => ?_, fun htw => ?_⟩
  · have htop : pc.toNat.testBit (b + c.indexBits + 2) = false := BitVec.getLsbD_of_ge pc _ (by omega)
    rw [tag_testBit, htop, Bool.and_false]
  · rw [tag_eq, htw, pow_zero, Nat.mod_one]

/-! ## The sharing bits (R65, R66) -/

theorem shareBits_none {c : Configuration} (h : c.sm = .noShare ∨ c.ts = .perSlot) (pc : Word) :
    c.shareBits pc = 0 := by
  unfold Configuration.shareBits
  cases hts : c.ts with
  | perSlot => rfl
  | global => rw [h.resolve_right (by simp [hts])]

theorem shareBits_lsb {c : Configuration} (hsm : c.sm = .lsbShare) (hts : c.ts = .global) (pc : Word) :
    c.shareBits pc = pc.toNat / 4 % 2 ^ c.hw.toNat := by
  simp only [Configuration.shareBits, hts, hsm, and_mask, alignedAddress_eq]

theorem shareBits_mid {c : Configuration} (hsm : c.sm = .midShare) (hts : c.ts = .global) (pc : Word) :
    c.shareBits pc = pc.toNat / 2 ^ 16 % 2 ^ c.hw.toNat := by
  simp only [Configuration.shareBits, hts, hsm, and_mask, Nat.shiftRight_eq_div_pow]

theorem shareBits_eq (c : Configuration) (pc : Word) :
    c.shareBits pc =
      if c.ts = .perSlot ∨ c.sm = .noShare then 0
      else if c.sm = .lsbShare then pc.toNat / 4 % 2 ^ c.hw.toNat
      else pc.toNat / 2 ^ 16 % 2 ^ c.hw.toNat := by
  cases hts : c.ts with
  | perSlot => simp [shareBits_none (.inr hts)]
  | global =>
    cases hsm : c.sm with
    | noShare => simp [shareBits_none (.inl hsm)]
    | lsbShare => simp [shareBits_lsb hsm hts]
    | midShare => simp [shareBits_mid hsm hts]

/-- Settles O24: the sharing bits of either mode are a field of the pc. -/
theorem sharingBitsOfEachMode : Obligations.SharingBitsOfEachMode := by
  refine fun c pc => ⟨fun h => shareBits_none h pc, fun hsm hts b => ?_, fun hsm hts b => ?_, ?_⟩
  · rw [shareBits_lsb hsm hts]
    exact testBit_field pc.toNat 2 _ b
  · rw [shareBits_mid hsm hts, testBit_field]
  · rintro p rfl hlt
    exact ⟨rfl, historyValue_lt p pc hlt⟩

/-- For a power-of-two capacity, index and tag together are the low IB + TW bits of the aligned address. -/
theorem low_bits_of_index_tag {c : Configuration} {k : Nat} (hk : c.cap.toNat = 2 ^ k) {pc1 pc2 : Word}
    (hidx : c.index pc1 = c.index pc2) (htag : c.tag pc1 = c.tag pc2) :
    pc1.toNat / 4 % 2 ^ (k + c.tw.toNat) = pc2.toNat / 4 % 2 ^ (k + c.tw.toNat) := by
  rw [index_eq, index_eq, hk] at hidx
  rw [tag_eq, tag_eq, indexBits_of_two_pow hk] at htag
  rw [pow_add, Nat.mod_mul, Nat.mod_mul, hidx, htag]

/-- Settles O28: the sharing bits are a field of the aligned address that lies inside the index and tag bits; Mid-share's
starts at its bit 14, which is bit 16 of the pc. -/
theorem sharingBitsAreFixedPerSlot : Obligations.SharingBitsAreFixedPerSlot := by
  intro c k pc1 pc2 hk hidx htag hts
  have hlow := low_bits_of_index_tag hk hidx htag
  refine ⟨fun hsm hfit => ?_, fun hsm hfit => ?_⟩
  · rw [shareBits_lsb hsm hts, shareBits_lsb hsm hts]
    exact Nat.ModEq.of_dvd (pow_dvd_pow 2 hfit) hlow
  · have hmid := field_congr hlow hfit
    rw [Nat.div_div_eq_div_mul, Nat.div_div_eq_div_mul] at hmid
    rwa [shareBits_mid hsm hts, shareBits_mid hsm hts]

/-! ## The lookup (R63, R64, R67, R71) -/

theorem Predictor.hit_iff (p : Predictor) (pc : Word) :
    p.hit pc = true ↔ (p.slot (p.cfg.index pc)).v = true ∧ (p.slot (p.cfg.index pc)).tag = p.cfg.tag pc := by
  rw [Predictor.hit, Bool.and_eq_true, beq_iff_eq]

theorem Predictor.lookup_counter (p : Predictor) (pc : Word) :
    (p.lookup pc).counter =
      if p.hit pc then some (p.cfg.fsmAddr (p.cfg.index pc) (p.historyValue pc)) else none := rfl

theorem Predictor.history_eq (p : Predictor) (i : Nat) :
    p.history i = if p.cfg.hs = .perSlot then (p.slot i).lh else p.ghr := by
  unfold Predictor.history
  cases p.cfg.hs <;> rfl

theorem fsmAddr_eq (c : Configuration) (i hv : Nat) :
    c.fsmAddr i hv = if c.ts = .global then hv else i * 2 ^ c.hw.toNat + hv := by
  cases hts : c.ts with
  | global => exact fsmAddr_global hts i hv
  | perSlot => exact fsmAddr_perSlot hts i hv

/-- Settles O26: each field of the lookup by its own equation, and the hit test of R63 as the condition. -/
theorem lookupFollowsTheSpec : Obligations.LookupFollowsTheSpec := by
  intro p pc ib hib
  obtain rfl := indexBits_of_least hib
  simp only [← index_eq, ← tag_eq, ← shareBits_eq, ← Predictor.history_eq, ← fsmAddr_eq, ← Predictor.hit_iff]
  exact ⟨p.lookup_idx pc, p.lookup_tag pc, fun hhit => (p.lookup_counter pc).trans (if_pos hhit),
    fun hmiss => (p.lookup_counter pc).trans (if_neg hmiss)⟩

/-! ## PREDICT (R68 to R70, R72) -/

/-- The equation of PREDICT when no refusal of R88, R90 or R91 turns it away. -/
theorem exec_predict_of_ready {s : State} {p : Predictor} {pc : Word} (hp : s.lc = .ready p)
    (hpc : misaligned pc = false) (hcount : p.npred.toNat ≠ statMax) :
    exec (.predict pc) s =
      .next ((s.setLc (.ready { p with npred := p.npred + 1 })).respond
        (.predict (p.prediction pc).1 (p.prediction pc).2)) := by
  simp only [exec, execPredict, State.ifReady_ready hp, hpc, Bool.false_eq_true, if_false, if_neg hcount]

theorem FsmState.taken_iff (c : FsmState) : c.taken = true ↔ c = .wt ∨ c = .st := by
  obtain ⟨-, -, -, -, hcounter⟩ := countersSaturate
  obtain ⟨-, -, htaken, -⟩ := hcounter c
  exact htaken

theorem Predictor.prediction_of_miss {p : Predictor} {pc : Word} (h : (p.lookup pc).counter = none) :
    p.prediction pc = (false, fallthrough pc) := by
  simp only [Predictor.prediction, h]

theorem Predictor.prediction_of_hit {p : Predictor} {pc : Word} {j : Nat} (h : (p.lookup pc).counter = some j) :
    p.prediction pc =
      if (p.counter j).taken then (true, (p.slot (p.lookup pc).idx).storedTarget) else (false, fallthrough pc) := by
  simp only [Predictor.prediction, h]

/-- Settles O29: the answer is that of R72, on each of its three branches. -/
theorem predictAnswersDirectionAndTarget : Obligations.PredictAnswersDirectionAndTarget := by
  intro s p pc hp hpc hcount
  have haligned : misaligned pc = false := by simp [misaligned_eq, hpc]
  have hroom : p.npred.toNat ≠ statMax := Nat.ne_of_lt hcount
  refine ⟨_, _, exec_predict_of_ready hp haligned hroom, fun j hj htaken => ?_, fun j hj hnot => ?_, fun hmiss => ?_⟩
  · have ht : (p.counter j).taken = true := (FsmState.taken_iff _).2 htaken
    rw [Predictor.prediction_of_hit hj, if_pos ht]
    exact ⟨rfl, storedTarget_toNat _⟩
  · have ht : ¬ (p.counter j).taken = true := by
      obtain hc | hc := hnot <;> simp [FsmState.taken_iff, hc]
    rw [Predictor.prediction_of_hit hj, if_neg ht]
    exact ⟨rfl, fallthrough_toNat pc⟩
  · rw [Predictor.prediction_of_miss hmiss]
    exact ⟨rfl, fallthrough_toNat pc⟩

end Sys2Proof.Machine
end

section
/-! PROOFS. The statements of 42_predict.md: PREDICT writes NPRED only (R72), so two PREDICTs of one pc with no UPDATE
between them answer the same (R73). -/

namespace Sys2Proof.Machine

/-! ## What PREDICT leaves in `LC` (R72) -/

theorem exec_predict_lc {pc : Word} {s t : State} (h : exec (.predict pc) s = .next t) :
    t.lc = s.lc ∨ ∃ p, s.lc = .ready p ∧ t.lc = .ready { p with npred := p.npred + 1 } := by
  obtain ⟨-, rfl⟩ | ⟨p, hp, ⟨-, rfl⟩ | ⟨-, -, rfl⟩ | ⟨-, -, rfl⟩⟩ := execPredict_cases h
  · exact .inl rfl
  · exact .inl rfl
  · exact .inl rfl
  · exact .inr ⟨p, hp, rfl⟩

theorem exec_pending {i : Instr} {s t : State} (h : exec i s = .next t) : t.pending = s.pending := by
  obtain ⟨t', ht', -, hpending, -⟩ := everyCommandRespondsOnceOrIsRefused i s
  exact Host.Outcome.next.inj (h.symm.trans ht') ▸ hpending

/-- Settles O32: no command writes the limits or the pending words, and a predictor left differs in NPRED only, which no
slot, counter or lookup reads. -/
theorem predictWritesOnlyItsCount : Obligations.PredictWritesOnlyItsCount := by
  intro s t pc h
  refine ⟨exec_limits h, exec_pending h, ?_⟩
  obtain hlc | ⟨p, hp, ht⟩ := exec_predict_lc h
  · exact ⟨fun p hp => ⟨p, hlc.trans hp, rfl, fun _ => rfl, fun _ => rfl, rfl, rfl, fun _ => rfl⟩, fun _ => hlc⟩
  · refine ⟨fun p' hp' => ?_, fun hnot => absurd hp (hnot p)⟩
    obtain rfl := Lifecycle.ready.inj (hp.symm.trans hp')
    exact ⟨_, ht, rfl, fun _ => rfl, fun _ => rfl, rfl, rfl, fun _ => rfl⟩

/-! ## Sequences of commands -/

theorem runCommands_cons {i : Instr} {s t : State} (h : exec i s = .next t) (is : List Instr) :
    runCommands (i :: is) s = runCommands is t := by
  simp only [runCommands, h]

theorem runCommands_cons_next {i : Instr} {is : List Instr} {s u : State} (h : runCommands (i :: is) s = .next u) :
    ∃ t, exec i s = .next t ∧ runCommands is t = .next u := by
  obtain ⟨t, ht⟩ := exec_next i s
  exact ⟨t, ht, runCommands_cons ht is ▸ h⟩

/-! ## PREDICTs and GETSTATS change NPRED only, as long as a predictor stays (R72, R82) -/

/-- The commands that make no predictor and write nothing of one but NPRED. -/
def IsPredictOrGetstats (i : Instr) : Prop := (∃ x, i = .predict x) ∨ i = .getstats

theorem exec_ready_of_predictOrGetstats {i : Instr} {s t : State} {q : Predictor} (hi : IsPredictOrGetstats i)
    (h : exec i s = .next t) (hq : t.lc = .ready q) : ∃ p n, s.lc = .ready p ∧ q = { p with npred := n } := by
  obtain hs | ⟨c, -, -, rfl⟩ | ⟨pc, p, -, hp, -, rfl⟩ | ⟨pc, a, k, g, p, rfl, -⟩ := exec_ready_cases h hq
  · exact ⟨q, q.npred, hs, rfl⟩
  · simp [IsPredictOrGetstats] at hi
  · exact ⟨p, p.npred + 1, hp, rfl⟩
  · simp [IsPredictOrGetstats] at hi

theorem runCommands_ready_of_predictOrGetstats {is : List Instr} {s u : State} {q : Predictor}
    (his : ∀ i ∈ is, IsPredictOrGetstats i) (h : runCommands is s = .next u) (hq : u.lc = .ready q) :
    ∃ p n, s.lc = .ready p ∧ q = { p with npred := n } := by
  induction is generalizing s with
  | nil =>
    obtain rfl := Host.Outcome.next.inj h
    exact ⟨q, q.npred, hq, rfl⟩
  | cons i is ih =>
    obtain ⟨hi, his⟩ := List.forall_mem_cons.1 his
    obtain ⟨t, ht, hu⟩ := runCommands_cons_next h
    obtain ⟨p', n, hp', rfl⟩ := ih his hu
    obtain ⟨p, m, hp, rfl⟩ := exec_ready_of_predictOrGetstats hi ht hp'
    exact ⟨p, n, hp, rfl⟩

/-! ## PREDICTs, aligned or not, while NPRED has room (R72, R90, R91) -/

theorem exec_predict_of_misaligned {s : State} {p : Predictor} {pc : Word} (hp : s.lc = .ready p)
    (hpc : misaligned pc = true) : exec (.predict pc) s = .next (s.refuse .misaligned) := by
  simp only [exec, execPredict, State.ifReady_ready hp, hpc, if_true]

/-- An aligned PREDICT adds 1 to NPRED, a misaligned one nothing. -/
theorem exec_predict_counts {s : State} {p : Predictor} {m : Stat} {pc : Word}
    (hp : s.lc = .ready { p with npred := m }) (hroom : pc.toNat % 4 = 0 → m.toNat ≠ statMax) :
    ∃ t n, exec (.predict pc) s = .next t ∧ t.lc = .ready { p with npred := n } ∧
      n.toNat = m.toNat + if pc.toNat % 4 = 0 then 1 else 0 := by
  by_cases hpc : pc.toNat % 4 = 0
  · have hexec := exec_predict_of_ready hp (pc := pc) (by simp [misaligned_eq, hpc]) (hroom hpc)
    exact ⟨_, m + 1, hexec, rfl, by rw [if_pos hpc, toNat_succ_of_ne_statMax (hroom hpc)]⟩
  · have hexec := exec_predict_of_misaligned hp (pc := pc) (by simp [misaligned_eq, hpc])
    exact ⟨_, m, hexec, hp, by rw [if_neg hpc, Nat.add_zero]⟩

theorem runCommands_predicts_count {s : State} {p : Predictor} {m : Stat} (pcs : List Word)
    (hp : s.lc = .ready { p with npred := m })
    (hroom : m.toNat + pcs.countP (fun x => x.toNat % 4 = 0) ≤ statMax) :
    ∃ u n, runCommands (pcs.map .predict) s = .next u ∧ u.lc = .ready { p with npred := n } ∧
      n.toNat = m.toNat + pcs.countP (fun x => x.toNat % 4 = 0) := by
  induction pcs generalizing s m with
  | nil => exact ⟨s, m, rfl, hp, rfl⟩
  | cons pc pcs ih =>
    simp only [List.countP_cons, decide_eq_true_eq] at hroom ⊢
    obtain ⟨t, n, ht, htlc, hn⟩ := exec_predict_counts (pc := pc) hp fun hpc => by
      rw [if_pos hpc] at hroom
      omega
    obtain ⟨u, k, hu, hulc, hk⟩ := ih htlc (by omega)
    exact ⟨u, k, by rw [List.map_cons, runCommands_cons ht, hu], hulc, by omega⟩

/-! ## Repeated PREDICTs (R73) -/

/-- PREDICT's response: no part of it depends on NPRED. -/
def Predictor.answer (p : Predictor) (pc : Word) : Response := .predict (p.prediction pc).1 (p.prediction pc).2

theorem Predictor.answer_withNpred (p : Predictor) (n : Stat) (pc : Word) :
    ({ p with npred := n } : Predictor).answer pc = p.answer pc := rfl

/-- A PREDICT that returned a response was not refused. -/
theorem exec_predict_answered {pc : Word} {s t : State} {r : Response} (h : exec (.predict pc) s = .next t)
    (hr : t.responses = s.responses ++ [r]) :
    ∃ p, s.lc = .ready p ∧ t.lc = .ready { p with npred := p.npred + 1 } ∧ r = p.answer pc := by
  obtain ⟨-, rfl⟩ | ⟨p, hp, ⟨-, rfl⟩ | ⟨-, -, rfl⟩ | ⟨-, -, rfl⟩⟩ := execPredict_cases h
  · simp at hr
  · simp at hr
  · simp at hr
  · have hresp : p.answer pc = r := by simpa [Predictor.answer] using hr
    exact ⟨p, hp, rfl, hresp.symm⟩

/-- Settles O31: the second PREDICT is answered from the first one's predictor with another NPRED. In the first part
that is read back from the second's predictor; in the second part NPRED counts the aligned PREDICTs between. -/
theorem repeatedPredictAnswersTheSame : Obligations.RepeatedPredictAnswersTheSame := by
  constructor
  · intro s t u v pc is r r' his hst hr htu huv hr'
    obtain ⟨p, hs, ht, rfl⟩ := exec_predict_answered hst hr
    obtain ⟨q, hu, hv, rfl⟩ := exec_predict_answered huv hr'
    obtain ⟨p', n, ht', rfl⟩ := runCommands_ready_of_predictOrGetstats his htu hu
    obtain rfl := Lifecycle.ready.inj (ht.symm.trans ht')
    exact ⟨p.answer_withNpred n pc, p, n, hs, ht, hu, hv⟩
  · intro s p pc pcs hp hpc hroom
    have hmax : statMax = 2 ^ 32 - 1 := rfl
    have haligned : misaligned pc = false := by simp [misaligned_eq, hpc]
    have hfirst : p.npred.toNat ≠ statMax := by omega
    have hcount : (p.npred + 1).toNat = p.npred.toNat + 1 := toNat_succ_of_ne_statMax hfirst
    have hst := exec_predict_of_ready hp haligned hfirst
    obtain ⟨u, n, hu, hulc, hn⟩ := runCommands_predicts_count (m := p.npred + 1) pcs
      (s := (s.setLc (.ready { p with npred := p.npred + 1 })).respond (p.answer pc)) rfl (by omega)
    rw [hcount] at hn
    have hlast : n.toNat ≠ statMax := by omega
    exact ⟨p.answer pc, _, u, n, hst, rfl, hu, hulc, hn, exec_predict_of_ready hulc haligned hlast⟩

end Sys2Proof.Machine
end

section
/-! PROOFS. The statements of 43_update.md: the misprediction check (R75), allocation (R76), the update in place (R77 to
R79), the history step (R80), and UPDATE as a command (R74, R81, R106). -/

namespace Sys2Proof.Machine

/-! ## The misprediction check and its count (R74, R75) -/

theorem mispredicted_iff (pc : Word) (t : Bool) (g : Word) :
    mispredicted pc t g = true ↔ ¬ (g.toNat ≠ (pc.toNat + 4) % 2 ^ 32 ↔ t = true) := by
  rw [mispredicted, bne_iff_ne, ne_eq, Bool.eq_iff_iff, bne_iff_ne, ← fallthrough_toNat, ne_eq, ne_eq,
    BitVec.toNat_inj]

/-- An UPDATE that R91 does not refuse adds 1 to NMISP exactly where its two directions differ. -/
theorem Predictor.resolved_nmisp_toNat {p : Predictor} {pc : Word} {t : Bool} {g : Word}
    (h : ¬ (mispredicted pc t g = true ∧ p.nmisp.toNat = statMax)) (a : Word) :
    (p.resolved pc a t g).nmisp.toNat =
      p.nmisp.toNat + if (g.toNat ≠ (pc.toNat + 4) % 2 ^ 32) ↔ t = true then 0 else 1 := by
  rw [Predictor.resolved_nmisp]
  by_cases hm : mispredicted pc t g = true
  · rw [if_pos hm, if_neg ((mispredicted_iff pc t g).1 hm)]
    exact toNat_succ_of_ne_statMax fun hfull => h ⟨hm, hfull⟩
  · rw [if_neg hm, if_pos (not_not.1 (mt (mispredicted_iff pc t g).2 hm))]
    rfl

/-! ## The history step (R80) -/

/-- The step shifts the history that a lookup of the slot selects. -/
theorem Predictor.shiftHistory_history (p : Predictor) (i : Nat) (t : Bool) :
    (p.shiftHistory i t).history i = p.cfg.shifted (p.history i) t := by
  cases hs : p.cfg.hs with
  | global => simp [Predictor.history, Predictor.shiftHistory_ghr, hs]
  | perSlot => simp [Predictor.history, Predictor.shiftHistory_slot, hs]

/-- Either path of UPDATE leaves a history that fits, whatever it found. -/
theorem Predictor.resolved_history_lt (p : Predictor) (pc a : Word) (t : Bool) (g : Word) :
    (p.resolved pc a t g).history (p.cfg.index pc) < 2 ^ p.cfg.hw.toNat := by
  cases h : (p.lookup pc).counter with
  | none =>
    rw [Predictor.resolved_miss h, Predictor.shiftHistory_history]
    simpa using shifted_lt _ _ t
  | some j =>
    rw [Predictor.resolved_hit h, Predictor.shiftHistory_history]
    simpa using shifted_lt _ _ t

theorem Predictor.shiftHistory_ghr_eq (p : Predictor) (i : Nat) (t : Bool) :
    (p.shiftHistory i t).ghr =
      if p.cfg.hs = .global then (2 * p.ghr + t.toNat) % 2 ^ p.cfg.hw.toNat else p.ghr := by
  rw [Predictor.shiftHistory_ghr, shifted_eq]
  cases p.cfg.hs <;> rfl

theorem Predictor.resolved_ghr (p : Predictor) (pc a : Word) (t : Bool) (g : Word) :
    (p.resolved pc a t g).ghr =
      if p.cfg.hs = .global then (2 * p.ghr + t.toNat) % 2 ^ p.cfg.hw.toNat else p.ghr := by
  cases h : (p.lookup pc).counter with
  | none => simp [Predictor.resolved_miss h, Predictor.shiftHistory_ghr_eq]
  | some j => simp [Predictor.resolved_hit h, Predictor.shiftHistory_ghr_eq]

/-! ## The slot and the counters on each path (R76, R77) -/

/-- The counters of slot `i`'s own table are those whose number divided by the table size is `i` (R34). -/
theorem div_tableSize_eq_iff (c : Configuration) (i j : Nat) :
    j / 2 ^ c.hw.toNat = i ↔ i * c.tableSize ≤ j ∧ j < i * c.tableSize + c.tableSize := by
  have hpos : 0 < 2 ^ c.hw.toNat := Nat.two_pow_pos _
  rw [Nat.div_eq_iff hpos, Configuration.tableSize]
  omega

section
variable {p : Predictor} {pc : Word}

theorem Predictor.resolved_slot_of_miss (h : (p.lookup pc).counter = none) (a : Word) (t : Bool) (g : Word) :
    (p.resolved pc a t g).slot (p.cfg.index pc) =
      { v := true, tag := p.cfg.tag pc, tgt := targetField a,
        lh := if p.cfg.hs = .perSlot then t.toNat % 2 ^ p.cfg.hw.toNat else (p.slot (p.cfg.index pc)).lh } := by
  rw [Predictor.resolved_miss h, Predictor.shiftHistory_slot]
  cases hs : p.cfg.hs <;> simp [Predictor.allocate_slot, shifted_eq, hs]

theorem Predictor.resolved_slot_of_hit {j : Nat} (h : (p.lookup pc).counter = some j) (a : Word) (t : Bool) (g : Word) :
    (p.resolved pc a t g).slot (p.cfg.index pc) =
      { p.slot (p.cfg.index pc) with
        tgt := targetField a
        lh := if p.cfg.hs = .perSlot then (2 * (p.slot (p.cfg.index pc)).lh + t.toNat) % 2 ^ p.cfg.hw.toNat
          else (p.slot (p.cfg.index pc)).lh } := by
  rw [Predictor.resolved_hit h, Predictor.shiftHistory_slot]
  cases hs : p.cfg.hs <;> simp [Predictor.updateInPlace_slot, shifted_eq, hs]

theorem Predictor.resolved_counter_of_miss (h : (p.lookup pc).counter = none) (a : Word) (t : Bool) (g : Word)
    (j : Nat) :
    (p.resolved pc a t g).counter j =
      if p.cfg.ts = .perSlot ∧ j / 2 ^ p.cfg.hw.toNat = p.cfg.index pc then p.cfg.ifs else p.counter j := by
  simp [Predictor.resolved_miss h, Predictor.allocate_counter, div_tableSize_eq_iff]

theorem Predictor.resolved_counter_of_hit {j : Nat} (h : (p.lookup pc).counter = some j) (a : Word) (t : Bool)
    (g : Word) (k : Nat) :
    (p.resolved pc a t g).counter k = if j = k then (p.counter j).trained t else p.counter k := by
  simp [Predictor.resolved_hit h, Predictor.updateInPlace_counter]

end

theorem FsmState.trained_code (c : FsmState) (t : Bool) :
    (c.trained t).code.toNat = if t = true then min (c.code.toNat + 1) 3 else c.code.toNat - 1 := by
  obtain ⟨-, -, -, -, hcounter⟩ := countersSaturate
  obtain ⟨htaken, hnotTaken, -⟩ := hcounter c
  cases t with
  | false => exact hnotTaken
  | true => exact htaken

/-! ## UPDATE as a command (R74) -/

/-- An UPDATE is refused, or answers and leaves the resolved predictor. -/
theorem exec_update_cases {pc a g : Word} {k : Bool} {s t : State} (h : exec (.update pc a k g) s = .next t) :
    (∃ reason, t = s.refuse reason) ∨
    ∃ p, s.lc = .ready p ∧ ¬ (mispredicted pc k g = true ∧ p.nmisp.toNat = statMax) ∧
      t = (s.setLc (.ready (p.resolved pc a k g))).respond .update := by
  obtain ⟨-, ht⟩ | ⟨p, hp, ⟨-, ht⟩ | ⟨-, -, ht⟩ | ⟨-, hroom, ht⟩⟩ := execUpdate_cases h
  · exact .inl ⟨_, ht⟩
  · exact .inl ⟨_, ht⟩
  · exact .inl ⟨_, ht⟩
  · exact .inr ⟨p, hp, hroom, ht⟩

/-- An UPDATE that is not refused, known by the response it added, resolves the predictor it found. -/
theorem exec_update_answered {pc a g : Word} {k : Bool} {s t : State} {p : Predictor}
    (h : exec (.update pc a k g) s = .next t) (hp : s.lc = .ready p) (hr : s.responses.length < t.responses.length) :
    ¬ (mispredicted pc k g = true ∧ p.nmisp.toNat = statMax) ∧ t.lc = .ready (p.resolved pc a k g) := by
  obtain ⟨reason, rfl⟩ | ⟨p', hp', hroom, rfl⟩ := exec_update_cases h
  · simp at hr
  · obtain rfl := Lifecycle.ready.inj (hp.symm.trans hp')
    exact ⟨hroom, rfl⟩

/-- The equation of UPDATE when no refusal of R88, R90 or R91 turns it away. -/
theorem exec_update_of_ready {s : State} {p : Predictor} {pc a g : Word} {k : Bool} (hp : s.lc = .ready p)
    (haligned : (misaligned pc || misaligned a || misaligned g) = false)
    (hroom : ¬ (mispredicted pc k g = true ∧ p.nmisp.toNat = statMax)) :
    exec (.update pc a k g) s = .next ((s.setLc (.ready (p.resolved pc a k g))).respond .update) := by
  simp only [exec, execUpdate, State.ifReady_ready hp, haligned, Bool.false_eq_true, if_false, if_neg hroom]

/-- The count has room for an UPDATE when it has room where the two directions differ. -/
theorem not_statOverflow_of_room {p : Predictor} {pc g : Word} {k : Bool}
    (h : ((g.toNat ≠ (pc.toNat + 4) % 2 ^ 32) ↔ k = false) → p.nmisp.toNat < 2 ^ 32 - 1) :
    ¬ (mispredicted pc k g = true ∧ p.nmisp.toNat = statMax) := by
  rintro ⟨hm, hfull⟩
  have hdiff : g.toNat ≠ (pc.toNat + 4) % 2 ^ 32 ↔ k = false := by
    rw [mispredicted_iff] at hm
    cases k <;> simpa using hm
  exact absurd hfull (Nat.ne_of_lt (h hdiff))

theorem aligned_of_mod_eq_zero {pc a g : Word} (hpc : pc.toNat % 4 = 0) (ha : a.toNat % 4 = 0) (hg : g.toNat % 4 = 0) :
    (misaligned pc || misaligned a || misaligned g) = false := by
  simp [misaligned_eq, hpc, ha, hg]

/-- The stored field loses nothing of an aligned target (R76, R77). -/
theorem targetField_mul_four {a : Word} (h : a.toNat % 4 = 0) : (targetField a).toNat * 4 = a.toNat := by
  rw [targetField_toNat]
  omega

/-- Settles O35: the added response shows that the UPDATE was not refused. -/
theorem mispredictionIsADirectionMismatch : Obligations.MispredictionIsADirectionMismatch := by
  intro s t p pc a g k hp h hr
  obtain ⟨hroom, ht⟩ := exec_update_answered h hp (by simp [hr])
  exact ⟨_, ht, Predictor.resolved_nmisp_toNat hroom a⟩

/-- Settles O36: the resolved predictor on the allocation path, field by field. -/
theorem updateAllocatesOnAMiss : Obligations.UpdateAllocatesOnAMiss := by
  intro s p pc a g k hp hpc ha hg hcount hmiss
  have hroom := not_statOverflow_of_room hcount
  have hslot := Predictor.resolved_slot_of_miss hmiss a k g
  refine ⟨p.resolved pc a k g, exec_update_of_ready hp (aligned_of_mod_eq_zero hpc ha hg) hroom,
    p.resolved_cfg pc a k g, p.resolved_npred pc a k g, Predictor.resolved_nmisp_toNat hroom a,
    fun i hi => p.resolved_slot_of_ne hi.symm a k g, ?_⟩
  rw [Predictor.lookup_idx, Predictor.lookup_tag, hslot]
  exact ⟨rfl, rfl, targetField_mul_four ha, rfl, p.resolved_ghr pc a k g,
    Predictor.resolved_counter_of_miss hmiss a k g⟩

/-- Settles O37: the resolved predictor on the in-place path, field by field. -/
theorem updateTrainsOnAHit : Obligations.UpdateTrainsOnAHit := by
  intro s p pc a g k j hp hpc ha hg hcount hhit
  have hroom := not_statOverflow_of_room hcount
  have hslot := Predictor.resolved_slot_of_hit hhit a k g
  have hcounter := Predictor.resolved_counter_of_hit hhit a k g
  refine ⟨p.resolved pc a k g, exec_update_of_ready hp (aligned_of_mod_eq_zero hpc ha hg) hroom,
    p.resolved_cfg pc a k g, p.resolved_npred pc a k g, Predictor.resolved_nmisp_toNat hroom a,
    fun i hi => p.resolved_slot_of_ne hi.symm a k g, ?_⟩
  rw [Predictor.lookup_idx, hslot]
  refine ⟨rfl, rfl, targetField_mul_four ha, rfl, p.resolved_ghr pc a k g, ?_, fun i hi => ?_⟩
  · rw [hcounter, if_pos rfl, FsmState.trained_code]
  · rw [hcounter, if_neg hi.symm]

/-- Settles O38: a refused UPDATE leaves `LC`, and an answered one resolves the predictor. -/
theorem updateWritesOnlyItsSlot : Obligations.UpdateWritesOnlyItsSlot := by
  intro s t pc a g k h
  refine ⟨exec_limits h, exec_pending h, ?_⟩
  obtain ⟨reason, rfl⟩ | ⟨p, hp, -, rfl⟩ := exec_update_cases h
  · exact ⟨fun p hp => ⟨p, hp, rfl, rfl, fun _ _ => rfl, fun _ => rfl⟩, fun _ => rfl⟩
  · refine ⟨fun p' hp' => ?_, fun hnot => absurd hp (hnot p)⟩
    obtain rfl := Lifecycle.ready.inj (hp.symm.trans hp')
    refine ⟨_, rfl, p.resolved_cfg pc a k g, p.resolved_npred pc a k g, fun i hi => ?_, fun hs => ?_⟩
    · rw [← index_eq] at hi
      exact p.resolved_slot_of_ne hi.symm a k g
    · simp [Predictor.resolved_ghr, hs]

/-! ## Three UPDATEs at one counter (R78, R79, R81) -/

theorem FsmState.trained_thrice (c : FsmState) (t : Bool) :
    ((c.trained t).trained t).trained t = if t then .st else .snt := by
  cases c <;> cases t <;> rfl

theorem exec_update_responses_le {pc a g : Word} {k : Bool} {s t : State} (h : exec (.update pc a k g) s = .next t) :
    t.responses.length ≤ s.responses.length + 1 := by
  obtain ⟨reason, rfl⟩ | ⟨p, -, -, rfl⟩ := exec_update_cases h
  · simp
  · simp

theorem exec_update_trains {pc a g : Word} {k : Bool} {s t : State} {p q : Predictor} {j : Nat}
    (h : exec (.update pc a k g) s = .next t) (hr : s.responses.length < t.responses.length) (hp : s.lc = .ready p)
    (hq : t.lc = .ready q) (hj : (p.lookup pc).counter = some j) : q.counter j = (p.counter j).trained k := by
  obtain ⟨-, ht⟩ := exec_update_answered h hp hr
  obtain rfl := Lifecycle.ready.inj (hq.symm.trans ht)
  rw [Predictor.resolved_counter_of_hit hj, if_pos rfl]

/-- Settles O39: three responses in three UPDATEs are one from each, so each trains the counter. -/
theorem threeUpdatesSaturateACounter : Obligations.ThreeUpdatesSaturateACounter := by
  intro k j s0 s1 s2 s3 p0 p1 p2 p3 pc0 pc1 pc2 a0 a1 a2 g0 g1 g2 h0 h1 h2 hr hp0 hp1 hp2 hp3 hj0 hj1 hj2
  have hlen : s3.responses.length = s0.responses.length + 3 := by simp [hr]
  have hle0 := exec_update_responses_le h0
  have hle1 := exec_update_responses_le h1
  have hle2 := exec_update_responses_le h2
  rw [exec_update_trains h2 (by omega) hp2 hp3 hj2, exec_update_trains h1 (by omega) hp1 hp2 hj1,
    exec_update_trains h0 (by omega) hp0 hp1 hj0, FsmState.trained_thrice]

/-! ## Sequences of UPDATEs (R80) -/

/-- The commands up to the last, and the last. -/
theorem runCommands_concat_next {is : List Instr} {i : Instr} {s u : State} (h : runCommands (is ++ [i]) s = .next u) :
    ∃ t, runCommands is s = .next t ∧ exec i t = .next u := by
  induction is generalizing s with
  | nil =>
    obtain ⟨v, hv, hnil⟩ := runCommands_cons_next h
    exact ⟨s, rfl, hv.trans hnil⟩
  | cons i' is ih =>
    obtain ⟨v, hv, hrest⟩ := runCommands_cons_next h
    obtain ⟨t, ht, hi⟩ := ih hrest
    exact ⟨t, by rw [runCommands_cons hv, ht], hi⟩

/-- Without a mark after it an UPDATE found no mark and was not refused (R86). -/
theorem exec_update_unmarked {pc a g : Word} {k : Bool} {s t : State} (h : exec (.update pc a k g) s = .next t)
    (hclean : t.refusal = none) :
    s.refusal = none ∧ ∃ p, s.lc = .ready p ∧ t.lc = .ready (p.resolved pc a k g) := by
  obtain ⟨reason, rfl⟩ | ⟨p, hp, -, rfl⟩ := exec_update_cases h
  · cases hclean
  · exact ⟨hclean, p, hp, rfl⟩

theorem Predictor.resolved_ghr_bit {p : Predictor} (hs : p.cfg.hs = .global) (pc a : Word) (t : Bool) (g : Word) :
    (p.resolved pc a t g).ghr = Nat.bit t p.ghr % 2 ^ p.cfg.hw.toNat := by
  rw [Predictor.resolved_ghr, if_pos hs, Nat.bit_val]

/-- Settles O40, from the last UPDATE back: the newest outcome is bit 0, and the bits of the UPDATEs before it have
moved up by one. -/
theorem historyHoldsTheLatestOutcomes : Obligations.HistoryHoldsTheLatestOutcomes := by
  intro us s t p hp hs hlt h hclean
  induction us using List.reverseRecOn generalizing t with
  | nil =>
    obtain rfl := Host.Outcome.next.inj h
    refine ⟨p, hp, rfl, fun k => ?_⟩
    obtain hk | hk := Nat.lt_or_ge k p.cfg.hw.toNat
    · simp [hk]
    · have hbit : p.ghr.testBit k = false := Nat.testBit_lt_two_pow (hlt.trans_le (Nat.pow_le_pow_right two_pos hk))
      simp [hbit]
  | append_singleton us u ih =>
    rw [updates, List.map_append] at h
    obtain ⟨v, hv, hvt⟩ := runCommands_concat_next h
    obtain ⟨hvclean, q, hq, ht⟩ := exec_update_unmarked hvt hclean
    obtain ⟨q', hq', hcfg, hbits⟩ := ih v hv hvclean
    obtain rfl := Lifecycle.ready.inj (hq.symm.trans hq')
    refine ⟨_, ht, (Predictor.resolved_cfg ..).trans hcfg, fun k => ?_⟩
    rw [Predictor.resolved_ghr_bit (hcfg ▸ hs), hcfg, Nat.testBit_mod_two_pow, List.reverse_concat']
    cases k with
    | zero => simp
    | succ k =>
      by_cases hk : k + 1 < p.cfg.hw.toNat
      · simp [Nat.testBit_bit_succ, hbits, hk, Nat.lt_of_succ_lt hk]
      · simp [hk]

/-! ## A branch just allocated, and a PREDICT with its UPDATE (R76, R81, R106) -/

/-- After an allocation the branch hits. -/
theorem Predictor.resolved_hit_of_miss {p : Predictor} {pc : Word} (h : (p.lookup pc).counter = none) (a : Word)
    (t : Bool) (g : Word) : (p.resolved pc a t g).hit pc = true := by
  rw [Predictor.hit_iff, Predictor.resolved_cfg, Predictor.resolved_slot_of_miss h]
  exact ⟨rfl, rfl⟩

/-- Settles O41: the claimed slot hits, and its history fits, so its counter is in the slot's table, just reset. -/
theorem allocatedBranchStartsFromTheInitialState : Obligations.AllocatedBranchStartsFromTheInitialState := by
  intro s t p q pc a g k hp hts hmiss h hr hq
  obtain ⟨-, ht⟩ := exec_update_answered h hp (by simp [hr])
  obtain rfl := Lifecycle.ready.inj (hq.symm.trans ht)
  have hcfg := p.resolved_cfg pc a k g
  have hhv : (p.resolved pc a k g).historyValue pc < p.cfg.tableSize := by
    rw [Configuration.tableSize, ← hcfg]
    exact historyValue_lt _ pc (hcfg ▸ p.resolved_history_lt pc a k g)
  refine ⟨congrArg (Configuration.index · pc) hcfg, _,
    (Predictor.lookup_counter _ pc).trans (if_pos (Predictor.resolved_hit_of_miss hmiss a k g)), ?_⟩
  rw [Predictor.resolved_counter_of_miss hmiss, hcfg, fsmAddr_perSlot hts]
  exact if_pos ⟨hts, (div_tableSize_eq_iff ..).2 ⟨by omega, by omega⟩⟩

/-- A prediction of not taken has the fall-through as its target (R70, R72). -/
theorem Predictor.prediction_not_taken {p : Predictor} {pc : Word} (h : (p.prediction pc).1 = false) :
    (p.prediction pc).2 = fallthrough pc := by
  cases hl : (p.lookup pc).counter with
  | none => rw [Predictor.prediction_of_miss hl]
  | some j =>
    rw [Predictor.prediction_of_hit hl] at h ⊢
    split at h
    · cases h
    · next hc => rw [if_neg hc]

/-- Settles O42: PREDICT leaves all that UPDATE reads but NPRED, and a target other than the fall-through says taken. -/
theorem pairedUpdateCountsWrongDirections : Obligations.PairedUpdateCountsWrongDirections := by
  intro s t u p q r pc a target predicted taken hp hst hr htu hr' hq hu
  obtain ⟨p', hp', ht, hanswer⟩ := exec_predict_answered hst hr
  obtain rfl := Lifecycle.ready.inj (hp.symm.trans hp')
  obtain rfl := Lifecycle.ready.inj (hq.symm.trans ht)
  obtain ⟨hroom, hu'⟩ := exec_update_answered htu hq (by simp [hr'])
  obtain rfl := Lifecycle.ready.inj (hu.symm.trans hu')
  obtain ⟨rfl, rfl⟩ := Response.predict.inj hanswer
  rw [Predictor.resolved_nmisp_toNat hroom a]
  refine ⟨rfl, fun hnot => ?_, fun ⟨_, htarget⟩ => ?_⟩
  · cases hpred : (p.prediction pc).1 with
    | false =>
      rw [Predictor.prediction_not_taken hpred, fallthrough_toNat]
      cases taken <;> simp
    | true =>
      have htarget : (p.prediction pc).2.toNat ≠ (pc.toNat + 4) % 2 ^ 32 := fun h => hnot ⟨hpred, h⟩
      exact congrArg _ (if_congr ((iff_true_left htarget).trans eq_comm) rfl rfl)
  · exact congrArg _ ((if_congr (iff_false_left (not_not.2 htarget)) rfl rfl).trans (ite_not ..))

end Sys2Proof.Machine
end

section
/-! PROOFS. The statements of 44_getstats.md: the storage cost (R83), and GETSTATS when its report fits (R82). -/

namespace Sys2Proof.Machine

/-- The storage cost with each scope's choice written as a condition on the configuration register (R83). -/
theorem hardwareBits_eq (c : Configuration) :
    c.hardwareBits = c.cap.toNat * (1 + c.tw.toNat + 30)
      + (if c.hs = .global then c.hw.toNat else c.hw.toNat * c.cap.toNat)
      + (if c.ts = .global then 2 * 2 ^ c.hw.toNat else 2 * 2 ^ c.hw.toNat * c.cap.toNat) := by
  obtain ⟨cap, hw, tw, ifs, hs, ts, sm⟩ := c
  cases hs <;> cases ts <;> rfl

/-- Settles O19: the formula holds in each pair of scopes, and its two examples are computed. -/
theorem hardwareBitsFormula : Obligations.HardwareBitsFormula :=
  ⟨hardwareBits_eq, fun _ _ => rfl, fun _ _ => rfl⟩

/-- A storage cost that R91 does not refuse loses nothing as a response word. -/
theorem hardwareBits_toNat {c : Configuration} (h : c.hardwareBits ≤ statMax) :
    (BitVec.ofNat 32 c.hardwareBits).toNat = c.hardwareBits := by
  have hmax : statMax = 2 ^ 32 - 1 := rfl
  exact (BitVec.toNat_ofNat ..).trans (Nat.mod_eq_of_lt (by omega))

/-- The equation of GETSTATS when no refusal of R88 or R91 turns it away. -/
theorem exec_getstats_of_ready {s : State} {p : Predictor} (hp : s.lc = .ready p)
    (hfits : p.cfg.hardwareBits ≤ statMax) :
    exec .getstats s =
      .next ((s.setLc .released).respond
        (.getstats p.npred p.nmisp (BitVec.ofNat 32 p.cfg.hardwareBits))) := by
  simp only [exec, execGetstats, State.ifReady_ready hp, if_neg (Nat.not_lt.2 hfits)]

/-- Settles O20: the storage cost reported is the 32-bit word of an integer that fits in it. -/
theorem getstatsReportsAndReleases : Obligations.GetstatsReportsAndReleases :=
  fun _ _ hp hfits => ⟨_, hardwareBits_toNat hfits, exec_getstats_of_ready hp hfits⟩

end Sys2Proof.Machine
end

section
/-! PROOFS. The statements of 60_exceptions.md: no step stops the block (R85, R94), every refusal and its order (R86 to
R92), and NPRED as the number of PREDICTs answered since the INIT (R97). -/

namespace Sys2Proof.Machine

/-! ## The current run, response by response (R97, R110) -/

theorem currentRun_append (rs : List Response) (r : Response) :
    currentRun (rs ++ [r]) = if r = .init .ok then [r] else currentRun rs ++ [r] := by
  simp [currentRun, List.foldl_append]

/-- A successful INIT starts a run without predictions. -/
theorem predictCount_currentRun_ok (rs : List Response) : predictCount (currentRun (rs ++ [.init .ok])) = 0 := by
  rw [currentRun_append, if_pos rfl]
  rfl

/-- Every other response continues the run, and counts when it is PREDICT's. -/
theorem predictCount_currentRun_append {r : Response} (h : r ≠ .init .ok) (rs : List Response) :
    predictCount (currentRun (rs ++ [r])) = predictCount (currentRun rs) + if r.isPredict then 1 else 0 := by
  rw [currentRun_append, if_neg h, predictCount, List.countP_append, List.countP_singleton]
  rfl

/-! ## NPRED counts the PREDICTs answered (R97) -/

theorem State.CountsPredictions.congr {s t : State} (h : s.CountsPredictions) (hlc : t.lc = s.lc)
    (hr : t.responses = s.responses) : t.CountsPredictions := by
  rwa [State.CountsPredictions, hlc, hr]

theorem State.CountsPredictions.refuse {s : State} (h : s.CountsPredictions) (reason : RefusalReason) :
    (s.refuse reason).CountsPredictions :=
  h.congr rfl rfl

theorem State.CountsPredictions.of_not_ready {s : State} (h : ∀ p, s.lc ≠ .ready p) : s.CountsPredictions :=
  fun p hp => absurd hp (h p)

theorem countsPredictions_setLc_respond {s : State} {q : Predictor} {r : Response} :
    ((s.setLc (.ready q)).respond r).CountsPredictions ↔
      q.npred.toNat = predictCount (currentRun (s.responses ++ [r])) :=
  ⟨fun h => h q rfl, fun h _ hp => Lifecycle.ready.inj hp ▸ h⟩

/-- INIT starts both counts at 0, an answered PREDICT adds 1 to both, and every other command leaves both alone or
leaves no predictor. -/
theorem exec_keeps_countsPredictions {i : Instr} {s t : State} (hs : s.CountsPredictions) (h : exec i s = .next t) :
    t.CountsPredictions := by
  cases i with
  | init cap hw tw ifs hs' ts sm =>
    obtain ⟨-, rfl⟩ | ⟨-, -, -, rfl⟩ | ⟨m, -, -, -, rfl⟩ | ⟨-, -, -, -, rfl⟩ := execInit_cases h
    · exact hs.refuse _
    · exact hs.refuse _
    · exact countsPredictions_setLc_respond.2 (predictCount_currentRun_ok _).symm
    · exact .of_not_ready fun _ => nofun
  | predict pc =>
    obtain ⟨-, rfl⟩ | ⟨p, hp, ⟨-, rfl⟩ | ⟨-, -, rfl⟩ | ⟨-, hroom, rfl⟩⟩ := execPredict_cases h
    · exact hs.refuse _
    · exact hs.refuse _
    · exact hs.refuse _
    · rw [countsPredictions_setLc_respond, predictCount_currentRun_append (r := .predict _ _) nofun, ← hs p hp]
      exact toNat_succ_of_ne_statMax hroom
  | update pc a k g =>
    obtain ⟨reason, rfl⟩ | ⟨p, hp, -, rfl⟩ := exec_update_cases h
    · exact hs.refuse reason
    · rw [countsPredictions_setLc_respond, predictCount_currentRun_append (r := .update) nofun, ← hs p hp,
        Predictor.resolved_npred]
      rfl
  | getstats =>
    obtain ⟨-, rfl⟩ | ⟨p, -, ⟨-, rfl⟩ | ⟨-, rfl⟩⟩ := execGetstats_cases h
    · exact hs.refuse _
    · exact hs.refuse _
    · exact .of_not_ready fun _ => nofun

/-- Settles O48: a step that runs no command changes neither `LC` nor the responses, and a command keeps the count. -/
theorem stepKeepsTheCountOfPredictions : Obligations.StepKeepsTheCountOfPredictions := by
  intro s t hs h
  obtain ⟨-, rfl⟩ | ⟨-, rest, -, rfl⟩ | ⟨i, rest, -, hexec⟩ := step_cases h
  · exact hs
  · exact hs.congr rfl rfl
  · exact exec_keeps_countsPredictions (s := { s with pending := rest }) (hs.congr rfl rfl) hexec

/-! ## Steps (R85, R86, R93, R94) -/

theorem decode_incomplete_of_length_lt {w0 : Word} {args : List Word} (h : args.length < operandCount w0) :
    decode (w0 :: args) = .incomplete := by
  simp only [decode, if_pos h]

theorem step_of_decode_incomplete {s : State} (h : decode s.pending = .incomplete) : step s = .next s := by
  simp only [step, h]

/-- Settles O7: in each case fewer operand words wait than the OP asks for. -/
theorem stepWaitsForAWholeCommand : Obligations.StepWaitsForAWholeCommand := by
  intro s
  refine ⟨fun hnil => ?_, fun w0 args hpending hop hlen => ?_, fun w0 hpending hop => ?_⟩
  · exact step_of_decode_incomplete (hnil ▸ rfl)
  · have hcount : operandCount w0 = 3 := by rw [operandCount_eq, if_pos hop]
    exact step_of_decode_incomplete (hpending ▸ decode_incomplete_of_length_lt (hcount ▸ hlen))
  · have hcount : operandCount w0 = 1 := by simp [operandCount_eq, hop]
    exact step_of_decode_incomplete (hpending ▸ decode_incomplete_of_length_lt (hcount ▸ Nat.one_pos))

/-- Settles O9: waiting and refusing a reserved word are next states, and so is what every command answers. -/
theorem everyStepAnswersANextState : Obligations.EveryStepAnswersANextState := by
  intro s
  cases hdec : decode s.pending with
  | incomplete => exact ⟨s, step_of_decode_incomplete hdec⟩
  | rejected why rest => exact ⟨_, step_of_decode_rejected hdec⟩
  | command i rest =>
    rw [step_of_decode_command hdec]
    exact exec_next i _

theorem State.refuse_of_marked {s : State} {reason : RefusalReason} (h : s.refusal = some reason)
    (r : RefusalReason) : (s.refuse r).refusal = some reason := by
  rw [State.refuse_refusal, h, Option.getD_some]

theorem exec_keeps_mark {i : Instr} {s t : State} {reason : RefusalReason} (hs : s.refusal = some reason)
    (h : exec i s = .next t) : t.refusal = some reason := by
  obtain ⟨r, rfl⟩ | ⟨lc, r, -, rfl⟩ := exec_refused_or_responded h
  · exact State.refuse_of_marked hs r
  · exact hs

/-- Settles O11: of all that a step does only a refusal writes the mark, and it keeps a reason already there. -/
theorem refusalMarkIsNeverCleared : Obligations.RefusalMarkIsNeverCleared := by
  intro s t reason hs h
  obtain ⟨-, rfl⟩ | ⟨-, rest, -, rfl⟩ | ⟨i, rest, -, hexec⟩ := step_cases h
  · exact hs
  · exact State.refuse_of_marked (s := { s with pending := rest }) hs .reservedEncoding
  · exact exec_keeps_mark (s := { s with pending := rest }) hs hexec

/-! ## Refusals for the lifecycle and for INIT's operands (R84, R88, R89) -/

/-- Without a predictor a command that is no INIT is refused, before any other check (R88, R92). -/
theorem exec_of_not_ready {s : State} (hs : ∀ p, s.lc ≠ .ready p) {i : Instr}
    (hi : ∀ cap hw tw ifs hs ts sm, i ≠ .init cap hw tw ifs hs ts sm) :
    exec i s = .next (s.refuse .notReady) := by
  cases i with
  | init cap hw tw ifs hs ts sm => exact absurd rfl (hi cap hw tw ifs hs ts sm)
  | predict pc => exact congrArg _ (State.ifReady_notReady hs _)
  | update pc a k g => exact congrArg _ (State.ifReady_notReady hs _)
  | getstats => exact congrArg _ (State.ifReady_notReady hs _)

/-- Settles O16: neither `Uninit` nor `Released` carries a predictor. -/
theorem outsideReadyOnlyInitIsAccepted : Obligations.OutsideReadyOnlyInitIsAccepted := by
  intro s hlc
  have hs : ∀ p, s.lc ≠ .ready p := by
    obtain hlc | hlc := hlc <;> simp [hlc]
  exact ⟨fun pc => exec_of_not_ready hs nofun, fun pc a k g => exec_of_not_ready hs nofun,
    exec_of_not_ready hs nofun⟩

theorem execInit_of_cap_zero (hw tw : Word) (ifs : FsmState) (hs ts : Scope) (m : SharingMode) (s : State) :
    execInit 0 hw tw ifs hs ts (.mode m) s = .next (s.refuse .badConfig) := by
  simp only [execInit, if_true]

theorem execInit_reserved (cap hw tw : Word) (ifs : FsmState) (hs ts : Scope) (s : State) :
    execInit cap hw tw ifs hs ts .reserved s = .next (s.refuse .reservedEncoding) :=
  rfl

/-- Settles O15: the sharing field is looked at first, then the capacity. -/
theorem initRefusesBadOperands : Obligations.InitRefusesBadOperands :=
  fun s cap hw tw ifs hs ts =>
    ⟨fun m => execInit_of_cap_zero hw tw ifs hs ts m s, execInit_reserved cap hw tw ifs hs ts s⟩

theorem Limits.not_admits_iff {l : Limits} {cap hw tw : Word} :
    l.admits cap hw tw = false ↔
      l.maxBtbCapacity < cap.toNat ∨ l.maxHistoryWidth < hw.toNat ∨ l.maxTagWidth < tw.toNat := by
  rw [← Bool.not_eq_true, Limits.admits_iff]
  omega

/-- INIT answers ALLOC_FAIL, leaving no predictor, exactly where an operand is beyond the limits (R84). -/
theorem execInit_allocFail_iff {cap hw tw : Word} (hcap : 1 ≤ cap.toNat) (ifs : FsmState) (hs ts : Scope)
    (m : SharingMode) (s : State) :
    execInit cap hw tw ifs hs ts (.mode m) s = .next ((s.setLc .uninit).respond (.init .allocFail)) ↔
      s.limits.admits cap hw tw = false := by
  have hne : cap ≠ 0 := fun h0 => by simp [h0] at hcap
  simp only [execInit, if_neg hne]
  cases s.limits.admits cap hw tw with
  | false => simp
  | true => simp [State.setLc, State.respond]

/-- The response ALLOC_FAIL is INIT's, with a legal sharing mode, and it leaves no predictor (R32, R84). -/
theorem exec_answers_allocFail {i : Instr} {s t : State} (h : exec i s = .next t)
    (hr : t.responses = s.responses ++ [.init .allocFail]) :
    t.lc = .uninit ∧ ∃ cap hw tw ifs hs ts m, i = .init cap hw tw ifs hs ts (.mode m) := by
  obtain ⟨reason, rfl⟩ | ⟨lc, r, hanswers, ht⟩ := exec_refused_or_responded h
  · simp at hr
  · obtain rfl : r = .init .allocFail := by simpa [ht] using hr
    cases i with
    | init cap hw tw ifs hs ts sm =>
      obtain ⟨-, rfl⟩ | ⟨-, -, -, rfl⟩ | ⟨m, -, -, -, rfl⟩ | ⟨m, rfl, -, -, rfl⟩ := execInit_cases h
      · simp at hr
      · simp at hr
      · simp at hr
      · exact ⟨rfl, cap, hw, tw, ifs, hs, ts, m, rfl⟩
    | predict pc => exact nomatch hanswers
    | update pc a k g => exact nomatch hanswers
    | getstats => exact nomatch hanswers

/-- Settles O14: INIT fails exactly where an operand is beyond the limits; the response says which command gave
it; and `Uninit` carries no predictor. -/
theorem allocFailExactlyBeyondTheInstance : Obligations.AllocFailExactlyBeyondTheInstance := by
  refine ⟨fun s cap hw tw ifs hs ts m hcap => ?_, rfl, rfl, fun i s t => exec_answers_allocFail,
    fun i s hlc hi => ?_⟩
  · rw [← Limits.not_admits_iff]
    exact (execInit_allocFail_iff hcap ifs hs ts m s).symm
  · exact exec_of_not_ready (by simp [hlc]) hi

/-! ## Refusals in `LC = Ready`, in the order of R92 (R90, R91) -/

theorem exec_predict_of_full {s : State} {p : Predictor} {pc : Word} (hp : s.lc = .ready p)
    (hpc : misaligned pc = false) (hfull : p.npred.toNat = statMax) :
    exec (.predict pc) s = .next (s.refuse .statOverflow) := by
  simp only [exec, execPredict, State.ifReady_ready hp, hpc, Bool.false_eq_true, if_false, if_pos hfull]

theorem exec_update_of_misaligned {s : State} {p : Predictor} {pc a g : Word} (hp : s.lc = .ready p)
    (h : (misaligned pc || misaligned a || misaligned g) = true) (k : Bool) :
    exec (.update pc a k g) s = .next (s.refuse .misaligned) := by
  simp only [exec, execUpdate, State.ifReady_ready hp, h, if_true]

theorem exec_update_of_full {s : State} {p : Predictor} {pc a g : Word} {k : Bool} (hp : s.lc = .ready p)
    (haligned : (misaligned pc || misaligned a || misaligned g) = false)
    (hfull : mispredicted pc k g = true ∧ p.nmisp.toNat = statMax) :
    exec (.update pc a k g) s = .next (s.refuse .statOverflow) := by
  simp only [exec, execUpdate, State.ifReady_ready hp, haligned, Bool.false_eq_true, if_false, if_pos hfull]

theorem exec_getstats_of_overflow {s : State} {p : Predictor} (hp : s.lc = .ready p)
    (h : statMax < p.cfg.hardwareBits) : exec .getstats s = .next (s.refuse .statOverflow) := by
  simp only [exec, execGetstats, State.ifReady_ready hp, gt_iff_lt, if_pos h]

/-- Settles O30, by the equation of each refusal; an UPDATE is mispredicted where its two directions differ (R75). -/
theorem readyCommandsAreRefusedInOrder : Obligations.ReadyCommandsAreRefusedInOrder := by
  intro s p hp
  refine ⟨fun pc hpc => ?_, fun pc hpc hfull => ?_, fun pc a k g hmis => ?_,
    fun pc a k g hpc ha hg hdiff hfull => ?_, exec_getstats_of_overflow hp⟩
  · exact exec_predict_of_misaligned hp (by simp [misaligned_eq, hpc])
  · exact exec_predict_of_full hp (by simp [misaligned_eq, hpc]) hfull
  · exact exec_update_of_misaligned hp (by simpa [misaligned_eq, or_assoc] using hmis) k
  · have hm : mispredicted pc k g = true := by
      rw [mispredicted_iff, hdiff]
      cases k <;> decide
    exact exec_update_of_full hp (aligned_of_mod_eq_zero hpc ha hg) ⟨hm, hfull⟩

/-! ## The lookup stays inside the storage (R85) -/

/-- Under TS = Local the counter of a hit is in the table of the slot that hit (R34). -/
theorem Predictor.Inv.lookup_counter_div {l : Limits} {p : Predictor} (h : p.Inv l) (hts : p.cfg.ts = .perSlot)
    {pc : Word} {j : Nat} (hj : (p.lookup pc).counter = some j) :
    j / 2 ^ p.cfg.hw.toNat = p.cfg.index pc := by
  obtain ⟨-, rfl⟩ := Predictor.lookup_hit hj
  have hhv : p.historyValue pc < p.cfg.tableSize := historyValue_lt p pc (h.history_lt _)
  rw [div_tableSize_eq_iff, fsmAddr_perSlot hts]
  omega

/-- Settles O27: the index is a remainder by CAP, and a hit's counter lies in the storage and in its slot's table. -/
theorem lookupStaysInsideTheStorage : Obligations.LookupStaysInsideTheStorage :=
  fun _ _ pc _ hInv hj =>
    ⟨hInv.index_lt pc, hInv.lookup_counter_lt hj, fun hts => hInv.lookup_counter_div hts hj⟩

end Sys2Proof.Machine
end

section
/-! PROOFS. The statement of 70_reset_and_hazards.md about runs: what is observed once GETSTATS has ended one (R110). -/

namespace Sys2Proof.Machine

/-- Releasing an unmarked predictor with a last response ends the run and shows it. -/
theorem State.observation_setLc_released_respond {s : State} (hclean : s.clean) (r : Response) :
    ((s.setLc .released).respond r).observation = some (currentRun (s.responses ++ [r])) := by
  have hmark : s.refusal = none := hclean
  simp only [State.observation, State.respond_refusal, State.setLc_refusal, hmark, State.respond_lc, State.setLc_lc,
    State.respond_responses, State.setLc_responses]

/-- GETSTATS' response continues the current run and is no prediction. -/
theorem currentRun_append_getstats (rs : List Response) (n m b : Stat) :
    currentRun (rs ++ [.getstats n m b]) = currentRun rs ++ [.getstats n m b] ∧
      predictCount (currentRun rs ++ [.getstats n m b]) = predictCount (currentRun rs) := by
  have hne : Response.getstats n m b ≠ .init .ok := nofun
  have hrun : currentRun (rs ++ [.getstats n m b]) = currentRun rs ++ [.getstats n m b] := by
    rw [currentRun_append, if_neg hne]
  exact ⟨hrun, hrun ▸ predictCount_currentRun_append hne rs⟩

/-- Settles O49: GETSTATS reports NPRED, which counts the run's predictions, and its own response adds none. -/
theorem observedRunReportsItsPredictions : Obligations.ObservedRunReportsItsPredictions := by
  intro s p hcounts hp hclean hfits
  have hexec := exec_getstats_of_ready hp hfits
  obtain ⟨hrun, hcount⟩ :=
    currentRun_append_getstats s.responses p.npred p.nmisp (BitVec.ofNat 32 p.cfg.hardwareBits)
  refine ⟨_, p.npred, p.nmisp, _, hexec, ?observed, ?counted, rfl, hardwareBits_toNat hfits⟩
  case observed => rw [State.observation_setLc_released_respond hclean, hrun]
  case counted => rw [hcount, hcounts p hp]

end Sys2Proof.Machine
end
